-- ==== Sys2Proof/Word.lean ====
section
/-!
DEFINITION. The word types of the xvm CPU (R8, R9, R10): every width is fixed, and arithmetic on them is modulo 2^n,
which is the arithmetic of `BitVec n`.
-/

namespace Sys2Proof

/-- A general register, pc, the flags word and an address: 32 bits (R8 XLEN). -/
abbrev Word := BitVec 32

/-- The spec's 16-bit "word" (R10): a segment selector, a legacy stack cell, an i16. -/
abbrev Half := BitVec 16

/-- A byte of memory or of an instruction (R10). -/
abbrev Byte := BitVec 8

/-- The cycle counter's 64 bits (R48). -/
abbrev Count := BitVec 64

end Sys2Proof
end

