-- ==== Sys2Proof/Syntax.lean ====
section
/-!
DEFINITION. The instructions of the xvm CPU: one constructor for each row of spec/opcode_table.json, in the table's order,
with the operands of its format (R113). `d`, `s` and `r` of type `Byte` are register index bytes, which may hold any value
(R114: 8 to 255 make the instruction a no-op); `r` of type `BitVec 3` is a register field of a legacy form, always a register
(R115); `k` is MOVSEG's selector field (R122), which names a selector when it is 5 or less.
-/

namespace Sys2Proof

/-- One instruction, decoded (R125 to R129). -/
inductive Instr where
  /-- MOV: x[d] <- x[s] (R160). -/
  | mov (d s : Byte)
  /-- MOVI: x[r] <- i32 (R161). -/
  | movi (r : Byte) (i32 : Word)
  /-- LDA: x[r] <- dword at a32 (R162). -/
  | lda (r : Byte) (a32 : Word)
  /-- STA: dword at a32 <- x[r] (R163). -/
  | sta (r : Byte) (a32 : Word)
  /-- LDR: x[d] <- dword at x[s] (R164). -/
  | ldr (d s : Byte)
  /-- STR: dword at x[d] <- x[s] (R165). -/
  | str (d s : Byte)
  /-- LDZB: x[d] <- zero-extended byte at x[s] (R166). -/
  | ldzb (d s : Byte)
  /-- LDSB: x[d] <- sign-extended byte at x[s] (R167). -/
  | ldsb (d s : Byte)
  /-- STRB: byte at x[d] <- x[s][7:0] (R168). -/
  | strb (d s : Byte)
  /-- PUSH: push dword (R169). -/
  | push (r : Byte)
  /-- POP: pop dword (R170). -/
  | pop (r : Byte)
  /-- ADD: add (R200). -/
  | add (d s : Byte)
  /-- ADDI: add immediate (R201). -/
  | addi (r : Byte) (i32 : Word)
  /-- SUB: subtract (R202). -/
  | sub (d s : Byte)
  /-- SUBI: subtract immediate (R203). -/
  | subi (r : Byte) (i32 : Word)
  /-- INC: increment (R204). -/
  | inc (r : Byte)
  /-- DEC: decrement (R205). -/
  | dec (r : Byte)
  /-- ADC: add with carry (R206). -/
  | adc (d s : Byte)
  /-- SBB: subtract with borrow (R207). -/
  | sbb (d s : Byte)
  /-- CMP: compare (R270). -/
  | cmp (d s : Byte)
  /-- CMPI: compare with immediate (R271). -/
  | cmpi (r : Byte) (i32 : Word)
  /-- AND: bitwise and (R240). -/
  | and (d s : Byte)
  /-- OR: bitwise or (R241). -/
  | or (d s : Byte)
  /-- XOR: bitwise exclusive or (R242). -/
  | xor (d s : Byte)
  /-- SHL: shift left (R244). -/
  | shl (r i8 : Byte)
  /-- SHR: shift right (R245). -/
  | shr (r i8 : Byte)
  /-- ROL: rotate left (R246). -/
  | rol (r i8 : Byte)
  /-- ROR: rotate right (R247). -/
  | ror (r i8 : Byte)
  /-- JMP: jump (R273). -/
  | jmp (a32 : Word)
  /-- JZ: jump if zero (R274). -/
  | jz (a32 : Word)
  /-- JNZ: jump if not zero (R275). -/
  | jnz (a32 : Word)
  /-- JC: jump if carry (R276). -/
  | jc (a32 : Word)
  /-- JNC: jump if no carry (R277). -/
  | jnc (a32 : Word)
  /-- JA: jump if above (R278). -/
  | ja (a32 : Word)
  /-- JB: jump if below (R279). -/
  | jb (a32 : Word)
  /-- CALL: call, 32-bit cell (R280). -/
  | call (a32 : Word)
  /-- RET: return, 32-bit cell (R281). -/
  | ret
  /-- LOOP: count x[2] down and jump (R282). -/
  | loop (a32 : Word)
  /-- CLI: clear IF2 (R342). -/
  | cli
  /-- STI: set IF2 (R343). -/
  | sti
  /-- PUSH16: push word (R173). -/
  | push16 (r : BitVec 3)
  /-- POP16: pop word (R174). -/
  | pop16 (r : BitVec 3)
  /-- JC.r8: jump if carry (R285). -/
  | jcR8 (rel8 : Byte)
  /-- JNC.r8: jump if no carry (R286). -/
  | jncR8 (rel8 : Byte)
  /-- JZ.r8: jump if zero (R287). -/
  | jzR8 (rel8 : Byte)
  /-- JNZ.r8: jump if not zero (R288). -/
  | jnzR8 (rel8 : Byte)
  /-- JA.r8: jump if above (R289). -/
  | jaR8 (rel8 : Byte)
  /-- JS.r8: jump if flags bit 7 (R290). -/
  | jsR8 (rel8 : Byte)
  /-- MOVSEG: seg[k] <- x[r][15:0] (R351). -/
  | movseg (k r : BitVec 3)
  /-- MOVSB: move byte (R321). -/
  | movsb
  /-- CMPSB: compare byte (R320). -/
  | cmpsb
  /-- MOV8: x[r][7:0] <- i8 (R171). -/
  | mov8 (r : BitVec 3) (i8 : Byte)
  /-- MOV16: x[r][15:0] <- i16 (R172). -/
  | mov16 (r : BitVec 3) (i16 : Half)
  /-- RET16 imm: return, 16-bit cell, and adjust the stack (R294). -/
  | ret16Imm (i16 : Half)
  /-- RET16: return, 16-bit cell (R293). -/
  | ret16
  /-- INT: software interrupt (R340). -/
  | int (i8 : Byte)
  /-- LOOP.r8: count x[2] down and jump (R295). -/
  | loopR8 (rel8 : Byte)
  /-- CALL.r16: call, 16-bit cell (R292). -/
  | callR16 (rel16 : Half)
  /-- JMP.r16: jump (R284). -/
  | jmpR16 (rel16 : Half)
  /-- JMP.r8: jump (R283). -/
  | jmpR8 (rel8 : Byte)
  /-- HLT: report a halt (R341). -/
  | hlt
  /-- CLI.L: clear IF2, legacy (R344). -/
  | cliL
  /-- STI.L: set IF9, legacy (R345). -/
  | stiL
  /-- SYSCALL: enter the fixed handler (R346). -/
  | syscall
  /-- SYSRET: return from the handler (R347). -/
  | sysret
  /-- UD2: report the undefined opcode (R350). -/
  | ud2
  /-- RDTSC: read the cycle counter (R349). -/
  | rdtsc
  /-- JA.r16: jump if above (R291). -/
  | jaR16 (rel16 : Half)
  /-- CPUID: CPU identification (R348). -/
  | cpuid
  /-- POPCNT: population count (R250). -/
  | popcnt (d s : Byte)
  /-- BSF: bit scan forward (R248). -/
  | bsf (d s : Byte)
  /-- BSR: bit scan reverse (R249). -/
  | bsr (d s : Byte)
  /-- REP MOVSB: repeat move byte (R322). -/
  | repMovsb
  /-- REP CMPSB: repeat compare byte while equal (R323). -/
  | repCmpsb
  /-- NOT: bitwise not (R243). -/
  | not (r : Byte)
  /-- NEG: negate (R208). -/
  | neg (r : Byte)
  /-- MUL: unsigned multiply (R209). -/
  | mul (r : Byte)
  /-- IMUL: signed multiply (R210). -/
  | imul (r : Byte)
  /-- DIV: unsigned divide (R211). -/
  | div (r : Byte)
  /-- IDIV: signed divide (R212). -/
  | idiv (r : Byte)
deriving DecidableEq, Repr

end Sys2Proof
end

