-- ==== Sys2Proof/WellFormed.lean ====
section
/-!
DEFINITION. Which terms of `Instr` are instructions of the machine. The one constraint of the opcode table is MOVSEG's: its
selector field is 5 or less, since 6 and 7 are a decode error (R129, R135). Every register index byte is allowed, 8 to 255
included (R114), and so is every value of every immediate, address and displacement.
-/

namespace Sys2Proof

/-- The selector field `b[5:3]` names one of the six selectors (R122, R129). -/
def selectorFieldOk (k : BitVec 3) : Bool := k.toNat ≤ 5

/-- The instruction has an encoding in the maps of R125 to R129. -/
def Instr.wellFormed : Instr → Bool
  | .movseg k _ => selectorFieldOk k
  | _ => true

/-- `Instr.wellFormed` as the proposition that statements take as a premise. -/
abbrev Instr.WellFormed (i : Instr) : Prop := i.wellFormed = true

end Sys2Proof
end

