-- ==== Sys2Proof/Decode.lean ====
section
/-!
DEFINITION. The decoder (R110 to R138), total on any bytes, and after it the encoder. Both are written from the formats of
R113 and the maps of R125 to R129. Byte 0 is the byte at pc. Multi-byte fields are little-endian (R75, R116, R117).
-/

namespace Sys2Proof

/-! ## Little-endian bytes (R75, R116, R117) -/

/-- A 16-bit value from its bytes, `b0` at the lowest address (R117). -/
def le16 (b0 b1 : Byte) : Half := b1 ++ b0

/-- A 32-bit value from its bytes, `b0` at the lowest address (R116). -/
def le32 (b0 b1 b2 b3 : Byte) : Word := b3 ++ b2 ++ b1 ++ b0

/-- The bytes of a 16-bit value, least significant first (R75). -/
def bytes16 (v : Half) : List Byte := [v.extractLsb' 0 8, v.extractLsb' 8 8]

/-- The bytes of a 32-bit value, least significant first (R75). -/
def bytes32 (v : Word) : List Byte :=
  [v.extractLsb' 0 8, v.extractLsb' 8 8, v.extractLsb' 16 8, v.extractLsb' 24 8]

/-! ## Formats (R113)

Each format reads the operands of an instruction from its bytes; a byte the list does not hold counts as 0. -/

/-- Byte `k` of an instruction. -/
def byteAt (w : List Byte) (k : Nat) : Byte := w.getD k 0#8

/-- The 32-bit field that starts at byte `k` (R116). -/
def dwordAt (w : List Byte) (k : Nat) : Word :=
  le32 (byteAt w k) (byteAt w (k + 1)) (byteAt w (k + 2)) (byteAt w (k + 3))

/-- The 16-bit field that starts at byte `k` (R117). -/
def halfAt (w : List Byte) (k : Nat) : Half := le16 (byteAt w k) (byteAt w (k + 1))

/-- The register field `op[2:0]` of a legacy opcode (R115). -/
def lowField (b : Byte) : BitVec 3 := b.extractLsb' 0 3

/-- The selector field `b[5:3]` of the byte after 0x8E (R122). -/
def selectorField (b : Byte) : BitVec 3 := b.extractLsb' 3 3

/-- Formats N, P and PX: no operand. -/
def formatN (i : Instr) (_ : List Byte) : Instr := i

/-- Formats R, J8 and I8: one byte after the opcode. -/
def formatR (c : Byte → Instr) (w : List Byte) : Instr := c (byteAt w 1)

/-- Formats RR and RB: two bytes after the opcode. -/
def formatRR (c : Byte → Byte → Instr) (w : List Byte) : Instr := c (byteAt w 1) (byteAt w 2)

/-- Format RI: a register index byte, then four bytes. -/
def formatRI (c : Byte → Word → Instr) (w : List Byte) : Instr := c (byteAt w 1) (dwordAt w 2)

/-- Format A: four bytes of absolute address. -/
def formatA (c : Word → Instr) (w : List Byte) : Instr := c (dwordAt w 1)

/-- Formats J16 and I16: a 16-bit field. -/
def formatJ16 (c : Half → Instr) (w : List Byte) : Instr := c (halfAt w 1)

/-- Format PRR: two register index bytes after a two-byte opcode. -/
def formatPRR (c : Byte → Byte → Instr) (w : List Byte) : Instr := c (byteAt w 2) (byteAt w 3)

/-- Format PJ: a 16-bit displacement after a two-byte opcode. -/
def formatPJ (c : Half → Instr) (w : List Byte) : Instr := c (halfAt w 2)

/-- Format G: a register index byte after the sub-operation byte (R121). -/
def formatG (c : Byte → Instr) (w : List Byte) : Instr := c (byteAt w 2)

/-- Format S: the selector field and the source register of byte 1 (R122); its bits 7..6 are ignored (R129). -/
def formatS (c : BitVec 3 → BitVec 3 → Instr) (w : List Byte) : Instr :=
  c (selectorField (byteAt w 1)) (lowField (byteAt w 1))

/-- Format LR: the register in the opcode's low bits (R115). -/
def formatLR (c : BitVec 3 → Instr) (w : List Byte) : Instr := c (lowField (byteAt w 0))

/-- Format LRI8: the register in the opcode's low bits, then a byte. -/
def formatLRI8 (c : BitVec 3 → Byte → Instr) (w : List Byte) : Instr :=
  c (lowField (byteAt w 0)) (byteAt w 1)

/-- Format LRI16: the register in the opcode's low bits, then a 16-bit field. -/
def formatLRI16 (c : BitVec 3 → Half → Instr) (w : List Byte) : Instr :=
  c (lowField (byteAt w 0)) (halfAt w 1)

/-! ## The opcode maps (R125 to R129)

A map answers how the rest of the instruction is read, or none for an unassigned byte. -/

/-- The entries of the primary map whose opcode holds a register in bits 2..0 (R115, R125). -/
def legacyRegisterMap (b0 : Byte) : Option (List Byte → Instr) :=
  match b0.extractLsb' 3 5 with
  | 0b01010#5 => some (formatLR .push16)
  | 0b01011#5 => some (formatLR .pop16)
  | 0b10110#5 => some (formatLRI8 .mov8)
  | 0b10111#5 => some (formatLRI16 .mov16)
  | _ => none

/-- The primary map (R125), but for the four escape bytes 0x0F, 0xF3, 0xF7 and 0x8E. -/
def primaryMap (b0 : Byte) : Option (List Byte → Instr) :=
  match b0 with
  | 0x01#8 => some (formatRR .mov)
  | 0x02#8 => some (formatRI .movi)
  | 0x03#8 => some (formatRI .lda)
  | 0x04#8 => some (formatRI .sta)
  | 0x05#8 => some (formatRR .ldr)
  | 0x06#8 => some (formatRR .str)
  | 0x07#8 => some (formatRR .ldzb)
  | 0x08#8 => some (formatRR .ldsb)
  | 0x09#8 => some (formatRR .strb)
  | 0x0A#8 => some (formatR .push)
  | 0x0B#8 => some (formatR .pop)
  | 0x10#8 => some (formatRR .add)
  | 0x11#8 => some (formatRI .addi)
  | 0x12#8 => some (formatRR .sub)
  | 0x13#8 => some (formatRI .subi)
  | 0x14#8 => some (formatR .inc)
  | 0x15#8 => some (formatR .dec)
  | 0x16#8 => some (formatRR .adc)
  | 0x17#8 => some (formatRR .sbb)
  | 0x18#8 => some (formatRR .cmp)
  | 0x19#8 => some (formatRI .cmpi)
  | 0x20#8 => some (formatRR .and)
  | 0x21#8 => some (formatRR .or)
  | 0x22#8 => some (formatRR .xor)
  | 0x23#8 => some (formatRR .shl)
  | 0x24#8 => some (formatRR .shr)
  | 0x25#8 => some (formatRR .rol)
  | 0x26#8 => some (formatRR .ror)
  | 0x30#8 => some (formatA .jmp)
  | 0x31#8 => some (formatA .jz)
  | 0x32#8 => some (formatA .jnz)
  | 0x33#8 => some (formatA .jc)
  | 0x34#8 => some (formatA .jnc)
  | 0x35#8 => some (formatA .ja)
  | 0x36#8 => some (formatA .jb)
  | 0x37#8 => some (formatA .call)
  | 0x38#8 => some (formatN .ret)
  | 0x39#8 => some (formatA .loop)
  | 0x3C#8 => some (formatN .cli)
  | 0x3D#8 => some (formatN .sti)
  | 0x72#8 => some (formatR .jcR8)
  | 0x73#8 => some (formatR .jncR8)
  | 0x74#8 => some (formatR .jzR8)
  | 0x75#8 => some (formatR .jnzR8)
  | 0x77#8 => some (formatR .jaR8)
  | 0x78#8 => some (formatR .jsR8)
  | 0xA4#8 => some (formatN .movsb)
  | 0xA6#8 => some (formatN .cmpsb)
  | 0xC2#8 => some (formatJ16 .ret16Imm)
  | 0xC3#8 => some (formatN .ret16)
  | 0xCD#8 => some (formatR .int)
  | 0xE2#8 => some (formatR .loopR8)
  | 0xE8#8 => some (formatJ16 .callR16)
  | 0xE9#8 => some (formatJ16 .jmpR16)
  | 0xEB#8 => some (formatR .jmpR8)
  | 0xF4#8 => some (formatN .hlt)
  | 0xFA#8 => some (formatN .cliL)
  | 0xFB#8 => some (formatN .stiL)
  | _ => legacyRegisterMap b0

/-- The two-byte map after 0x0F (R126). -/
def map0F (b1 : Byte) : Option (List Byte → Instr) :=
  match b1 with
  | 0x05#8 => some (formatN .syscall)
  | 0x07#8 => some (formatN .sysret)
  | 0x0B#8 => some (formatN .ud2)
  | 0x31#8 => some (formatN .rdtsc)
  | 0x87#8 => some (formatPJ .jaR16)
  | 0xA2#8 => some (formatN .cpuid)
  | 0xB8#8 => some (formatPRR .popcnt)
  | 0xBC#8 => some (formatPRR .bsf)
  | 0xBD#8 => some (formatPRR .bsr)
  | _ => none

/-- The repeat-prefix map after 0xF3 (R127). -/
def mapF3 (b1 : Byte) : Option (List Byte → Instr) :=
  match b1 with
  | 0xA4#8 => some (formatN .repMovsb)
  | 0xA6#8 => some (formatN .repCmpsb)
  | _ => none

/-- The group map after 0xF7: the sub-operation byte, read whole (R121, R128). -/
def mapF7 (sub : Byte) : Option (List Byte → Instr) :=
  match sub with
  | 0x02#8 => some (formatG .not)
  | 0x03#8 => some (formatG .neg)
  | 0x04#8 => some (formatG .mul)
  | 0x05#8 => some (formatG .imul)
  | 0x06#8 => some (formatG .div)
  | 0x07#8 => some (formatG .idiv)
  | _ => none

/-- The segment-load map after 0x8E (R129): a selector field of 6 or 7 is unassigned. -/
def map8E (b : Byte) : Option (List Byte → Instr) :=
  if selectorFieldOk (selectorField b) then some (formatS .movseg) else none

/-! ## The decoder (R138) -/

/-- Why bytes are no instruction, with the bytes that tell it (R131 to R135). -/
inductive DecodeError where
  /-- An unassigned first byte (R132). -/
  | primary (b0 : Byte)
  /-- An unassigned byte after 0x0F (R133). -/
  | twoByte (b1 : Byte)
  /-- A byte after 0xF3 other than 0xA4 and 0xA6 (R131). -/
  | repeatPrefix (b1 : Byte)
  /-- A sub-operation after 0xF7 outside 2..7 (R134). -/
  | group (sub : Byte)
  /-- A byte after 0x8E whose selector field is 6 or 7 (R135). -/
  | segmentLoad (b : Byte)
deriving DecidableEq, Repr

/-- The bytes a decode error consumes, which its diagnostic records (R137, R383). -/
def DecodeError.bytes : DecodeError → List Byte
  | .primary b0 => [b0]
  | .twoByte b1 => [0x0F#8, b1]
  | .repeatPrefix b1 => [0xF3#8, b1]
  | .group sub => [0xF7#8, sub]
  | .segmentLoad b => [0x8E#8, b]

/-- What the decoder answers (R138): an instruction or a decode error; the length of either follows from it. -/
inductive Decoded where
  | instr (i : Instr)
  | error (e : DecodeError)
deriving DecidableEq, Repr

/-- An entry of a map, applied to the bytes; an unassigned one is the error given. -/
def Decoded.ofEntry (f : Option (List Byte → Instr)) (w : List Byte) (e : DecodeError) : Decoded :=
  match f with
  | some c => .instr (c w)
  | none => .error e

/-- The decoder (R138): the instruction at the start of the bytes `w`, or a decode error. At most six bytes matter. -/
def decode (w : List Byte) : Decoded :=
  let b0 := byteAt w 0
  let b1 := byteAt w 1
  match b0 with
  | 0x0F#8 => Decoded.ofEntry (map0F b1) w (.twoByte b1)
  | 0xF3#8 => Decoded.ofEntry (mapF3 b1) w (.repeatPrefix b1)
  | 0xF7#8 => Decoded.ofEntry (mapF7 b1) w (.group b1)
  | 0x8E#8 => Decoded.ofEntry (map8E b1) w (.segmentLoad b1)
  | _ => Decoded.ofEntry (primaryMap b0) w (.primary b0)

/-! ## The encoder -/

/-- A legacy opcode: its upper five bits and a register field (R113, R115). -/
def legacyOpcode (high : BitVec 5) (r : BitVec 3) : Byte := high ++ r

/-- The byte after 0x8E (R122); its ignored bits 7..6 are written as 0 (assumption log 14). -/
def segmentByte (k r : BitVec 3) : Byte := 0b00#2 ++ k ++ r

/-- The bytes of an instruction, byte 0 first (R113, R125 to R129). -/
def encode : Instr → List Byte
  | .mov d s => [0x01#8, d, s]
  | .movi r i32 => [0x02#8, r] ++ bytes32 i32
  | .lda r a32 => [0x03#8, r] ++ bytes32 a32
  | .sta r a32 => [0x04#8, r] ++ bytes32 a32
  | .ldr d s => [0x05#8, d, s]
  | .str d s => [0x06#8, d, s]
  | .ldzb d s => [0x07#8, d, s]
  | .ldsb d s => [0x08#8, d, s]
  | .strb d s => [0x09#8, d, s]
  | .push r => [0x0A#8, r]
  | .pop r => [0x0B#8, r]
  | .add d s => [0x10#8, d, s]
  | .addi r i32 => [0x11#8, r] ++ bytes32 i32
  | .sub d s => [0x12#8, d, s]
  | .subi r i32 => [0x13#8, r] ++ bytes32 i32
  | .inc r => [0x14#8, r]
  | .dec r => [0x15#8, r]
  | .adc d s => [0x16#8, d, s]
  | .sbb d s => [0x17#8, d, s]
  | .cmp d s => [0x18#8, d, s]
  | .cmpi r i32 => [0x19#8, r] ++ bytes32 i32
  | .and d s => [0x20#8, d, s]
  | .or d s => [0x21#8, d, s]
  | .xor d s => [0x22#8, d, s]
  | .shl r i8 => [0x23#8, r, i8]
  | .shr r i8 => [0x24#8, r, i8]
  | .rol r i8 => [0x25#8, r, i8]
  | .ror r i8 => [0x26#8, r, i8]
  | .jmp a32 => [0x30#8] ++ bytes32 a32
  | .jz a32 => [0x31#8] ++ bytes32 a32
  | .jnz a32 => [0x32#8] ++ bytes32 a32
  | .jc a32 => [0x33#8] ++ bytes32 a32
  | .jnc a32 => [0x34#8] ++ bytes32 a32
  | .ja a32 => [0x35#8] ++ bytes32 a32
  | .jb a32 => [0x36#8] ++ bytes32 a32
  | .call a32 => [0x37#8] ++ bytes32 a32
  | .ret => [0x38#8]
  | .loop a32 => [0x39#8] ++ bytes32 a32
  | .cli => [0x3C#8]
  | .sti => [0x3D#8]
  | .push16 r => [legacyOpcode 0b01010#5 r]
  | .pop16 r => [legacyOpcode 0b01011#5 r]
  | .jcR8 rel8 => [0x72#8, rel8]
  | .jncR8 rel8 => [0x73#8, rel8]
  | .jzR8 rel8 => [0x74#8, rel8]
  | .jnzR8 rel8 => [0x75#8, rel8]
  | .jaR8 rel8 => [0x77#8, rel8]
  | .jsR8 rel8 => [0x78#8, rel8]
  | .movseg k r => [0x8E#8, segmentByte k r]
  | .movsb => [0xA4#8]
  | .cmpsb => [0xA6#8]
  | .mov8 r i8 => [legacyOpcode 0b10110#5 r, i8]
  | .mov16 r i16 => [legacyOpcode 0b10111#5 r] ++ bytes16 i16
  | .ret16Imm i16 => [0xC2#8] ++ bytes16 i16
  | .ret16 => [0xC3#8]
  | .int i8 => [0xCD#8, i8]
  | .loopR8 rel8 => [0xE2#8, rel8]
  | .callR16 rel16 => [0xE8#8] ++ bytes16 rel16
  | .jmpR16 rel16 => [0xE9#8] ++ bytes16 rel16
  | .jmpR8 rel8 => [0xEB#8, rel8]
  | .hlt => [0xF4#8]
  | .cliL => [0xFA#8]
  | .stiL => [0xFB#8]
  | .syscall => [0x0F#8, 0x05#8]
  | .sysret => [0x0F#8, 0x07#8]
  | .ud2 => [0x0F#8, 0x0B#8]
  | .rdtsc => [0x0F#8, 0x31#8]
  | .jaR16 rel16 => [0x0F#8, 0x87#8] ++ bytes16 rel16
  | .cpuid => [0x0F#8, 0xA2#8]
  | .popcnt d s => [0x0F#8, 0xB8#8, d, s]
  | .bsf d s => [0x0F#8, 0xBC#8, d, s]
  | .bsr d s => [0x0F#8, 0xBD#8, d, s]
  | .repMovsb => [0xF3#8, 0xA4#8]
  | .repCmpsb => [0xF3#8, 0xA6#8]
  | .not r => [0xF7#8, 0x02#8, r]
  | .neg r => [0xF7#8, 0x03#8, r]
  | .mul r => [0xF7#8, 0x04#8, r]
  | .imul r => [0xF7#8, 0x05#8, r]
  | .div r => [0xF7#8, 0x06#8, r]
  | .idiv r => [0xF7#8, 0x07#8, r]

/-- The length in bytes of an instruction (R110, R113). -/
def Instr.length (i : Instr) : Nat := (encode i).length

/-! ## Reading the opcode table's numbers -/

/-- The bytes of an instruction whose bits are the number `w` of `n` bytes, numbered as spec/opcode_table.json numbers them:
"the byte at pc is the most significant byte of `match` and `mask`" (INDEX.md). DEDUCED (assumption log 9). -/
def tableBytes : Nat → Nat → List Byte
  | 0, _ => []
  | n + 1, w => BitVec.ofNat 8 (w >>> (8 * n)) :: tableBytes n w

/-- The six bytes of a table word: its own bytes, then zeros up to the longest instruction (R110). -/
def tableWindow (nbits w : Nat) : List Byte :=
  (tableBytes (nbits / 8) w ++ List.replicate 6 0#8).take 6

/-- The instruction the decoder reads from a word of the opcode table, none where it answers a decode error. -/
def decodeTableWord (nbits w : Nat) : Option Instr :=
  match decode (tableWindow nbits w) with
  | .instr i => some i
  | .error _ => none

end Sys2Proof
end

