-- ==== Sys2Proof/Config.lean ====
section
/-!
DEFINITION. What is fixed for the machine (R8): the constants the spec gives a value, the parameters it leaves OPEN
(gathered in `Setup`, with the spec's defaults where it has them), and the two values it neither gives nor defaults,
as opaque constants.
-/

namespace Sys2Proof

namespace Config

/-- MEM_SIZE, 1 MiB (R8, R70). -/
def memSize : Nat := 0x100000

/-- BOOT_ADDR (R8, R431). -/
def bootAddr : Word := 0x7C00#32

/-- BOOT_SIZE, the bytes copied at boot (R8, R431). -/
def bootSize : Nat := 512

/-- BATCH, the cycles of a run-loop batch (R8, R435). -/
def batchLength : Nat := 1000

/-- SECTOR_SIZE (R8, R396). -/
def sectorSize : Nat := 512

/-- HEADS (R8, R396). -/
def heads : Nat := 2

/-- SPT, the sectors of a track (R8, R396). -/
def sectorsPerTrack : Nat := 18

/-- TTY_ATTR, the teletype's attribute byte (R8, R394). -/
def ttyAttr : Byte := 0x07#8

/-- INT_TTY, the teletype service's number (R8, R393). -/
def intTty : Byte := 0x10#8

/-- INT_DISK, the disk-read service's number (R8, R393). -/
def intDisk : Byte := 0x13#8

/-- The default of the OPEN parameter TEXT_BASE (R8). -/
def defaultTextBase : Word := 0xB8000#32

/-- The default of the OPEN parameter TEXT_COLS (R8). -/
def defaultTextCols : Nat := 80

/-- The default of the OPEN parameter TEXT_ROWS (R8). -/
def defaultTextRows : Nat := 25

end Config

/-- The four "fixed capability words" that CPUID returns for one request (R8 CPUID_WORDS, R348). -/
structure CpuidWords where
  w0 : Word
  w1 : Word
  w2 : Word
  w3 : Word
deriving DecidableEq, Repr, Inhabited

/-- SYSCALL_HANDLER where nothing else fixes it (R8: OPEN, "value not in source"): a free value.
DESIGN CHOICE, safe (assumption log 2). -/
opaque Config.syscallHandler : Word

/-- CPUID_WORDS for the requests a setup does not list (R8: OPEN, "values not in source"): a free total function of the
request. DESIGN CHOICE, safe (assumption log 3). -/
opaque Config.cpuidWords : Word → CpuidWords

/-- Who a write hook calls (R83). A callback is an observer (R86), so only its identity matters: the Display's
`on_cell_write` (R402), or another one named by a number. DESIGN CHOICE, safe (assumption log 15). -/
inductive Callback where
  | display
  | other (id : Nat)
deriving DecidableEq, Repr

/-- A write hook (R83): a half-open address range, a callback, and an opaque context, held as a number. -/
structure Hook where
  start    : Nat
  stop     : Nat
  callback : Callback
  context  : Nat
deriving DecidableEq, Repr

/-- The parameters fixed when a machine is set up (R8, R443): "a model takes every OPEN parameter as an argument".
They are not machine state (R57) and no step changes them (R30). -/
structure Setup where
  /-- TEXT_BASE, the first address of the text window. -/
  textBase       : Word
  /-- TEXT_COLS. -/
  textCols       : Nat
  /-- TEXT_ROWS. -/
  textRows       : Nat
  /-- HOOKS, the write-hook table in registration order (R83, R84). -/
  hooks          : List Hook
  /-- DISK_IMAGE, a finite byte sequence or absent (R431, R396). -/
  diskImage      : Option (List Byte)
  /-- SYSCALL_HANDLER (R346). -/
  syscallHandler : Word
  /-- The requests whose CPUID words this setup fixes; any other request is answered by `Config.cpuidWords` (R348). -/
  cpuidListed    : List (Word × CpuidWords)
deriving DecidableEq, Repr

/-- The default hook (R8, R83): the text window `[TEXT_BASE, TEXT_BASE + TEXT_ROWS*TEXT_COLS*2)`, to the Display. The spec calls
a hook's context opaque and gives the default one no value; that it is 0 is a DESIGN CHOICE, unsafe (assumption log 22). -/
def Hook.textWindow (base : Word) (cols rows : Nat) : Hook :=
  { start := base.toNat, stop := base.toNat + rows * cols * 2, callback := .display, context := 0 }

/-- The default parameters of R8, with no disk image attached (assumption logs 6, 12 and 22). -/
def Setup.default : Setup where
  textBase := Config.defaultTextBase
  textCols := Config.defaultTextCols
  textRows := Config.defaultTextRows
  hooks := [Hook.textWindow Config.defaultTextBase Config.defaultTextCols Config.defaultTextRows]
  diskImage := none
  syscallHandler := Config.syscallHandler
  cpuidListed := []

end Sys2Proof
end

