-- ==== Sys2Proof/Machine/State.lean ====
section
/-!
DEFINITION. The state of the machine (R30), as plain data, the reasons a machine can stop, and the state after reset.
INVENTORY.md lists every field with the rule that names it.
-/

namespace Sys2Proof.Machine

/-- The eight general registers (R31): one bank, no aliases, none hard-wired (R32). -/
structure Regs where
  x0 : Word
  x1 : Word
  x2 : Word
  x3 : Word
  x4 : Word
  x5 : Word
  x6 : Word
  x7 : Word
deriving DecidableEq, Repr

/-- The six segment selectors (R49), plain storage. -/
structure Selectors where
  es : Half
  cs : Half
  ss : Half
  ds : Half
  fs : Half
  gs : Half
deriving DecidableEq, Repr

/-- A selector's name; the spec numbers them 0 es, 1 cs, 2 ss, 3 ds, 4 fs, 5 gs (R49). -/
inductive Sel where
  | es
  | cs
  | ss
  | ds
  | fs
  | gs
deriving DecidableEq, Repr

/-- The two states of the run loop (R53, R434). -/
inductive RunState where
  | running
  | stopped
deriving DecidableEq, Repr

/-- A diagnostic (R382), with the information it records. -/
inductive Diag where
  /-- pc of the first byte, and the bytes consumed (R383). -/
  | decodeError (pc : Word) (bytes : List Byte)
  /-- The start address of the data access, or the address of the fetched byte (R384). -/
  | boundsRead (addr : Word)
  /-- The start address of the data access (R385). -/
  | boundsWrite (addr : Word)
  /-- pc of the DIV or IDIV (R386). -/
  | divZero (pc : Word)
  /-- pc of the UD2 (R387). -/
  | ud (pc : Word)
  /-- pc of the HLT (R388). -/
  | halt (pc : Word)
  /-- pc of the INT, the starting cylinder, head and sector, and the failing linear offset (R389, R397). -/
  | diskIo (pc : Word) (cylinder head sector : Nat) (offset : Int)
  /-- The pc value (R390). -/
  | ipOutOfRange (pc : Word)
deriving DecidableEq, Repr

/-- An output event (R56): the machine appends it and never reads it back. -/
inductive Event where
  /-- A diagnostic on the diagnostic channel (R381). -/
  | diag (d : Diag)
  /-- `Hook(h, context, a, b)`: one matching byte write (R86). -/
  | hook (h : Hook) (context : Nat) (addr : Word) (value : Byte)
  /-- `Render(k)`: batch k completed (R438). -/
  | render (k : Nat)
deriving DecidableEq, Repr

/-- Memory: the bytes that are not 0, by address, addresses strictly rising. An unlisted address reads as 0, what every
byte holds at machine creation (R430). -/
abbrev Memory := List Host.Cell

/-- The machine (R30), with the run loop's counters (R435), the outputs (R56), and the inputs and parameters that a model
takes as arguments (R8, R443; assumption logs 1, 4, 5). -/
structure State where
  /-- The general registers x[0] to x[7] (R31). -/
  regs       : Regs
  /-- The program counter, the source's ip (R37). -/
  pc         : Word
  /-- The flags word (R41). -/
  flags      : Word
  /-- The segment selectors (R49). -/
  segs       : Selectors
  /-- The last-write address; none is the value NONE (R50). -/
  lwa        : Option Word
  /-- The cycle counter (R48). -/
  cycles     : Count
  /-- The teletype cursor's row (R51). -/
  curRow     : Nat
  /-- The teletype cursor's column (R51). -/
  curCol     : Nat
  /-- The run loop's state (R53). -/
  run        : RunState
  /-- The position of the current cycle in its batch (R53). -/
  bpos       : Nat
  /-- The number of the current batch, the run loop's k (R435). -/
  batch      : Nat
  /-- Memory (R70). -/
  mem        : Memory
  /-- The parameters fixed at setup (R8, R57). -/
  setup      : Setup
  /-- The host's shutdown request (R437): the first batch k with `shutdown_requested(k)`, none if there is none. -/
  shutdownAt : Option Nat
  /-- The output events so far, the first one first (R56). -/
  events     : List Event
deriving DecidableEq, Repr

/-- Why no machine runs. A step never answers with one: every condition of a running machine is reported and the step
completes (R143, R380). -/
inductive Fault where
  /-- Boot load was given no image, or one of fewer than 512 bytes (R432). Raised by `bootLoad` only. Safe: the spec says
  that the machine then never runs. -/
  | bootFailure
deriving DecidableEq, Repr

/-- Why an instruction has no meaning. No instruction is refused. -/
inductive Refusal where
  /-- The instruction has no meaning in the model yet. Raised by the arms of `exec` only. Safe: the machine stops. -/
  | notModelled (mnemonic : String)
deriving DecidableEq, Repr

/-- What an instruction or a step answers. -/
abbrev Answer := Host.Outcome State Fault Refusal

/-- A machine with the parameters `p` in the state that creation and boot load leave, but for the bytes of the boot sector:
memory is all 0 (R430, R431 step 4). -/
def State.created (p : Setup) : State where
  regs := { x0 := 0, x1 := 0, x2 := 0, x3 := 0, x4 := 0, x5 := 0, x6 := 0, x7 := Config.bootAddr }
  pc := Config.bootAddr
  flags := 0
  segs := { es := 0, cs := 0, ss := 0, ds := 0, fs := 0, gs := 0 }
  lwa := none
  cycles := 0
  curRow := 0
  curCol := 0
  run := .running
  bpos := 0
  batch := 0
  mem := []
  setup := p
  shutdownAt := none
  events := []

/-- The machine right after reset: the default start state of 95_test_vectors.md section 0, with the default parameters of
R8 and no disk image attached (assumption log 6). -/
def State.reset : State := State.created Setup.default

end Sys2Proof.Machine
end

