-- ==== Sys2Proof/Machine/Flags.lean ====
section
/-!
DEFINITION. The flags word (R41 to R47): its named bits, the ways instructions write them, and the conditions that jumps
test (R272). A bit that no operation names keeps its value (R221).
-/

namespace Sys2Proof.Machine

/-- ZF is bit 0 (R41). -/
def zfBit : Nat := 0

/-- CF is bit 1 (R41). -/
def cfBit : Nat := 1

/-- IF2 is bit 2 (R41, R44). -/
def if2Bit : Nat := 2

/-- SF is bit 7 (R41, R46). -/
def sfBit : Nat := 7

/-- IF9 is bit 9 (R41, R45). -/
def if9Bit : Nat := 9

/-- The word with bit `k` made `b` and every other bit kept. -/
def putBit (w : Word) (k : Nat) (b : Bool) : Word :=
  if b then w ||| (1#32 <<< k) else w &&& ~~~(1#32 <<< k)

/-- Flag bit `k`. -/
def State.flag (s : State) (k : Nat) : Bool := s.flags.getLsbD k

/-- `flags.ZF`. -/
def State.zf (s : State) : Bool := s.flag zfBit

/-- `flags.CF`. -/
def State.cf (s : State) : Bool := s.flag cfBit

/-- `flags[7]`, the sign flag as JS.r8 reads it. -/
def State.sf (s : State) : Bool := s.flag sfBit

/-- `flags <- w`. -/
def State.setFlags (s : State) (w : Word) : State := { s with flags := w }

/-- Writes flag bit `k` only. -/
def State.setFlag (s : State) (k : Nat) (b : Bool) : State := s.setFlags (putBit s.flags k b)

/-- `flags.ZF <- b`. -/
def State.setZF (s : State) (b : Bool) : State := s.setFlag zfBit b

/-- `flags.CF <- b`. -/
def State.setCF (s : State) (b : Bool) : State := s.setFlag cfBit b

/-- `flags.ZF <- (v == 0)` (R42). -/
def State.zeroFlag (s : State) (v : Word) : State := s.setZF (v == 0#32)

/-- The flags of a comparison: `flags.ZF <- (a == b); flags.CF <- (a < b)`, unsigned (R270). The operands are byte values
or register values, as numbers. -/
def State.compareFlags (s : State) (a b : Nat) : State :=
  (s.setZF (decide (a = b))).setCF (decide (a < b))

/-- CF as a number, the carry or borrow in of ADC and SBB (R206, R207). -/
def State.carryIn (s : State) : Nat := s.cf.toNat

/-- The exact sum of ADC, `x[d] + x[s] + flags.CF` (R206). -/
def carrySum (a b : Word) (c : Nat) : Nat := a.toNat + b.toNat + c

/-- The exact difference of SBB, `x[d] - x[s] - flags.CF` (R207). -/
def borrowDifference (a b : Word) (c : Nat) : Int := (a.toNat : Int) - (b.toNat : Int) - (c : Int)

/-- The conditions of conditional jumps (R272). -/
inductive Cond where
  | z
  | nz
  | c
  | nc
  | a
  | b
  | s
deriving DecidableEq, Repr

/-- When a condition is true (R272). -/
def State.holds (m : State) : Cond → Bool
  | .z => m.zf
  | .nz => !m.zf
  | .c => m.cf
  | .nc => !m.cf
  | .a => !m.cf && !m.zf
  | .b => m.cf
  | .s => m.sf

end Sys2Proof.Machine
end

