-- ==== Sys2Proof/Machine/Ops.lean ====
section
/-!
DEFINITION. The named operations over registers, memory and outputs, which every meaning is written with: the register file,
memory and its bus (R70 to R88), the diagnostic channel (R381, R382), the stack (R175), the entry into the fixed handler
and the return from it (R346, R347, R398, R399), the decode error (R137), and boot load (R431, R432).
-/

namespace Sys2Proof.Machine

/-! ## Registers (R12, R31, R49) -/

/-- Register `i` of the file. -/
def Regs.get (r : Regs) (i : Fin 8) : Word :=
  match i with
  | 0 => r.x0
  | 1 => r.x1
  | 2 => r.x2
  | 3 => r.x3
  | 4 => r.x4
  | 5 => r.x5
  | 6 => r.x6
  | 7 => r.x7

/-- The file with register `i` written. -/
def Regs.set (r : Regs) (i : Fin 8) (v : Word) : Regs :=
  match i with
  | 0 => { r with x0 := v }
  | 1 => { r with x1 := v }
  | 2 => { r with x2 := v }
  | 3 => { r with x3 := v }
  | 4 => { r with x4 := v }
  | 5 => { r with x5 := v }
  | 6 => { r with x6 := v }
  | 7 => { r with x7 := v }

/-- `x[i]` (R12). -/
def State.reg (s : State) (i : Fin 8) : Word := s.regs.get i

/-- `x[i] <- v` (R12). -/
def State.setReg (s : State) (i : Fin 8) (v : Word) : State := { s with regs := s.regs.set i v }

/-- `pc <- v` (R12). -/
def State.setPc (s : State) (v : Word) : State := { s with pc := v }

/-- `next`, the address of the byte after an instruction of `len` bytes (R15). -/
def State.next (s : State) (len : Word) : Word := s.pc + len

/-- The selector that a field of 3 bits names; 6 and 7 name none (R49, R135). -/
def Sel.ofField (k : BitVec 3) : Option Sel :=
  match k with
  | 0#3 => some .es
  | 1#3 => some .cs
  | 2#3 => some .ss
  | 3#3 => some .ds
  | 4#3 => some .fs
  | 5#3 => some .gs
  | _ => none

/-- One selector. -/
def Selectors.get (g : Selectors) : Sel → Half
  | .es => g.es
  | .cs => g.cs
  | .ss => g.ss
  | .ds => g.ds
  | .fs => g.fs
  | .gs => g.gs

/-- The selectors with one written. -/
def Selectors.set (g : Selectors) (k : Sel) (v : Half) : Selectors :=
  match k with
  | .es => { g with es := v }
  | .cs => { g with cs := v }
  | .ss => { g with ss := v }
  | .ds => { g with ds := v }
  | .fs => { g with fs := v }
  | .gs => { g with gs := v }

/-- `seg[k]`. -/
def State.seg (s : State) (k : Sel) : Half := s.segs.get k

/-- `seg[k] <- v`. -/
def State.setSeg (s : State) (k : Sel) (v : Half) : State := { s with segs := s.segs.set k v }

/-! ## Outputs (R56, R381) -/

/-- The code of a diagnostic (R382). -/
def Diag.code : Diag → Nat
  | .decodeError _ _ => 1
  | .boundsRead _ => 2
  | .boundsWrite _ => 3
  | .divZero _ => 4
  | .ud _ => 5
  | .halt _ => 6
  | .diskIo _ _ _ _ _ => 7
  | .ipOutOfRange _ => 8

/-- The name of a diagnostic (R382). -/
def Diag.name : Diag → String
  | .decodeError _ _ => "DECODE_ERROR"
  | .boundsRead _ => "BOUNDS_READ"
  | .boundsWrite _ => "BOUNDS_WRITE"
  | .divZero _ => "DIV_ZERO"
  | .ud _ => "UD"
  | .halt _ => "HALT"
  | .diskIo _ _ _ _ _ => "DISK_IO"
  | .ipOutOfRange _ => "IP_OUT_OF_RANGE"

/-- Appends output events. -/
def State.emit (s : State) (es : List Event) : State := { s with events := s.events ++ es }

/-- `raise`: appends one diagnostic and does nothing else (R14). -/
def State.raise (s : State) (d : Diag) : State := s.emit [.diag d]

/-! ## Memory as data (R70, R430) -/

/-- The byte at an address; an unlisted one is 0 (R430). -/
def Memory.read : Memory → Nat → Byte
  | [], _ => 0#8
  | (k, v) :: m, a => if k = a then v else Memory.read m a

/-- The byte at `a` becomes `b`, listed where the addresses keep rising. -/
def Memory.put : Memory → Nat → Byte → Memory
  | [], a, b => [(a, b)]
  | (k, v) :: m, a, b =>
    if a < k then (a, b) :: (k, v) :: m
    else if a = k then (a, b) :: m
    else (k, v) :: Memory.put m a b

/-- Takes an address out of the list. -/
def Memory.erase (m : Memory) (a : Nat) : Memory := m.filter fun c => c.1 != a

/-- The byte at `a` becomes `b`; a 0 is not listed, so that equal memories are equal lists. -/
def Memory.write (m : Memory) (a : Nat) (b : Byte) : Memory :=
  if b = 0#8 then Memory.erase m a else Memory.put m a b

/-- Every address of the list is above `a`. -/
def Memory.above (a : Nat) (m : Memory) : Bool := m.all fun c => decide (a < c.1)

/-- The canonical form: addresses strictly rising and in range (R70), and no entry 0. -/
def Memory.wf : Memory → Bool
  | [] => true
  | (k, v) :: m => decide (k < Config.memSize) && v != 0#8 && Memory.above k m && Memory.wf m

/-! ## Reads (R72 to R74) -/

/-- The address is in range (R70). -/
def inRange (a : Word) : Bool := decide (a.toNat < Config.memSize)

/-- All of the `n` byte addresses `a`, `a + 1`, … (mod 2^32) are in range. -/
def spanInRange (a : Word) : Nat → Bool
  | 0 => true
  | n + 1 => inRange a && spanInRange (a + 1#32) n

/-- `ReadByte(a)`: out of range it is 0 (R72). -/
def State.readByte (s : State) (a : Word) : Byte :=
  if inRange a then Memory.read s.mem a.toNat else 0#8

/-- The value of `MemRead(a, 2)` (R73). -/
def State.readHalf (s : State) (a : Word) : Half := le16 (s.readByte a) (s.readByte (a + 1#32))

/-- The value of `MemRead(a, 4)` (R73). -/
def State.readWord (s : State) (a : Word) : Word :=
  le32 (s.readByte a) (s.readByte (a + 1#32)) (s.readByte (a + 2#32)) (s.readByte (a + 3#32))

/-- The report of `MemRead(a, n)`: one BOUNDS_READ when a byte of the access is out of range (R74). -/
def State.noteRead (s : State) (a : Word) (n : Nat) : State :=
  if spanInRange a n then s else s.raise (.boundsRead a)

/-! ## Writes: the memory bus (R80 to R87) -/

/-- `register_hook(start, length, callback, context)`: appends an entry (R83). -/
def registerHook (hooks : List Hook) (start length : Nat) (callback : Callback) (context : Nat) : List Hook :=
  hooks ++ [{ start := start, stop := start + length, callback := callback, context := context }]

/-- A hook matches an address of its half-open range (R84). -/
def hookCovers (h : Hook) (a : Word) : Bool := decide (h.start ≤ a.toNat) && decide (a.toNat < h.stop)

/-- The events of the hooks that match a byte write, in registration order (R80, R84, R86). -/
def hookEvents (hooks : List Hook) (a : Word) (b : Byte) : List Event :=
  (hooks.filter fun h => hookCovers h a).map fun h => .hook h h.context a b

/-- The raw store of one byte; out of range it is discarded (R80). -/
def Memory.storeByte (m : Memory) (a : Word) (b : Byte) : Memory :=
  if inRange a then Memory.write m a.toNat b else m

/-- `BusWrite(a, b)`: the raw store, then the hooks, whether or not the store landed (R80, R85). -/
def State.busWrite (s : State) (a : Word) (b : Byte) : State :=
  State.emit { s with mem := Memory.storeByte s.mem a b } (hookEvents s.setup.hooks a b)

/-- The byte writes of one access, in ascending address order (R81). -/
def State.busWrites (s : State) (a : Word) : List Byte → State
  | [] => s
  | b :: bs => State.busWrites (s.busWrite a b) (a + 1#32) bs

/-- The report of `MemWrite(a, n, _)`: one BOUNDS_WRITE when a byte of the access is out of range (R74). -/
def State.noteWrite (s : State) (a : Word) (n : Nat) : State :=
  if spanInRange a n then s else s.raise (.boundsWrite a)

/-- `MemWrite(a, n, v)`, given the bytes of v: sets lwa, reports, then writes byte by byte (R74, R81, R82). That the report
comes before the access's hook events is DEDUCED from vector V-M9 (assumption log 5). -/
def State.memWrite (s : State) (a : Word) (bytes : List Byte) : State :=
  State.busWrites (State.noteWrite { s with lwa := some a } a bytes.length) a bytes

/-! ## The stack (R169, R170, R173, R174, R175) -/

/-- x[7], the stack pointer (R32). -/
def State.sp (s : State) : Word := s.reg 7

/-- A push: decrement x[7] by the size of the cell, then write the cell there. -/
def State.pushBytes (s : State) (bytes : List Byte) : State :=
  let a := s.sp - BitVec.ofNat 32 bytes.length
  (s.setReg 7 a).memWrite a bytes

/-- Push of a 32-bit cell (R169). -/
def State.pushWord (s : State) (v : Word) : State := s.pushBytes (bytes32 v)

/-- Push of a 16-bit cell (R173). -/
def State.pushHalf (s : State) (v : Half) : State := s.pushBytes (bytes16 v)

/-- What a pop of an `n`-byte cell does beside giving its value: the report of the read, then the increment of x[7]. The
value is `readWord` or `readHalf` at x[7], read before. -/
def State.popped (s : State) (n : Nat) : State :=
  (s.noteRead s.sp n).setReg 7 (s.sp + BitVec.ofNat 32 n)

/-! ## The one entry into a handler, and the return (R346, R347, R398, R399)

The machine has no traps (R380). SYSCALL's entry pushes the flags word and then the return address, changes no flag and no
mode, and goes to the fixed address SYSCALL_HANDLER. -/

/-- Enters the fixed handler; `ret` is the return address to save (R346, R398). -/
def State.enterHandler (s : State) (ret : Word) : State :=
  let t := (s.pushWord s.flags).pushWord ret
  t.setPc t.setup.syscallHandler

/-- Returns from the handler: pops the return address, then the flags word (R347, R399). -/
def State.returnFromHandler (s : State) : State :=
  let v := s.readWord s.sp
  let t := s.popped 4
  let f := t.readWord t.sp
  ((t.popped 4).setPc v).setFlags f

/-! ## Decode errors (R137, R383) -/

/-- Takes a decode error that consumed `bytes`: reports it and moves pc past them; nothing else changes. -/
def State.takeDecodeError (s : State) (bytes : List Byte) : State :=
  (s.raise (.decodeError s.pc bytes)).setPc (s.next (BitVec.ofNat 32 bytes.length))

/-! ## Parameters (R8) -/

/-- CPUID_WORDS, a total function of the request (R348). -/
def cpuidWordsOf (p : Setup) (request : Word) : CpuidWords :=
  match p.cpuidListed.find? fun e => e.1 == request with
  | some e => e.2
  | none => Config.cpuidWords request

/-! ## Boot load (R431, R432) -/

/-- Raw stores of a byte sequence from an address up: no hook, no lwa, no diagnostic (R431 step 3). -/
def Memory.load (m : Memory) (a : Nat) : List Byte → Memory
  | [] => m
  | b :: bs => Memory.load (Memory.write m a b) (a + 1) bs

/-- Creation and boot load of a machine with the parameters `p`: fails without a whole boot sector (R432), and else leaves
the first 512 bytes of the image at BOOT_ADDR and the boot state (R430, R431). -/
def bootLoad (p : Setup) : Answer :=
  match p.diskImage with
  | none => .fault .bootFailure
  | some image =>
    if image.length < Config.bootSize then .fault .bootFailure
    else
      let s := State.created p
      .next { s with mem := Memory.load s.mem Config.bootAddr.toNat (image.take Config.bootSize) }

end Sys2Proof.Machine
end

