-- ==== Sys2Proof/Machine/Operands.lean ====
section
/-!
DEFINITION. Operand forms and the shapes that meanings share: the register-index guard (R16), register fields (R115),
displacements (R118), partial register writes (R35), instruction lengths (R113), and the default pc update (R141).
-/

namespace Sys2Proof.Machine

/-! ## Instruction lengths (R113) -/

/-- Format N, LR: 1 byte. -/
def len1 : Word := 1#32

/-- Formats R, P, S, PX, LRI8, J8, I8: 2 bytes. -/
def len2 : Word := 2#32

/-- Formats RR, RB, G, LRI16, J16, I16: 3 bytes. -/
def len3 : Word := 3#32

/-- Formats PRR, PJ: 4 bytes. -/
def len4 : Word := 4#32

/-- Format A: 5 bytes. -/
def len5 : Word := 5#32

/-- Format RI: 6 bytes. -/
def len6 : Word := 6#32

/-! ## Registers named by an instruction -/

/-- The register a whole index byte names: 0 to 7, none for 8 to 255 (R34, R114). -/
def regIndex? (b : Byte) : Option (Fin 8) :=
  if h : b.toNat < 8 then some ⟨b.toNat, h⟩ else none

/-- The register a 3-bit field names (R115). -/
def regOfField (r : BitVec 3) : Fin 8 := ⟨r.toNat, r.isLt⟩

/-- `x[i][7:0] <- b`: the upper 24 bits stay (R12, R35). -/
def State.setRegLow8 (s : State) (i : Fin 8) (b : Byte) : State :=
  s.setReg i ((s.reg i).extractLsb' 8 24 ++ b)

/-- `x[i][15:0] <- h`: the upper 16 bits stay (R12, R35). -/
def State.setRegLow16 (s : State) (i : Fin 8) (h : Half) : State :=
  s.setReg i ((s.reg i).extractLsb' 16 16 ++ h)

/-- `x[i][15:0]`. -/
def State.regLow16 (s : State) (i : Fin 8) : Half := (s.reg i).extractLsb' 0 16

/-- `x[i][7:0]`. -/
def State.regLow8 (s : State) (i : Fin 8) : Byte := (s.reg i).extractLsb' 0 8

/-! ## Shapes -/

/-- The end of an instruction that writes no pc: `pc <- next`, counted from the state `s` at its start (R141). -/
def State.advance (t s : State) (len : Word) : State := t.setPc (s.next len)

/-- `guard(r): body` (R16): an invalid index byte makes the instruction a no-op but for the pc advance. -/
def guard1 (r : Byte) (len : Word) (s : State) (body : Fin 8 → State) : Answer :=
  match regIndex? r with
  | some i => .next ((body i).advance s len)
  | none => .next (s.advance s len)

/-- `guard(d, e): body` (R16). -/
def guard2 (d e : Byte) (len : Word) (s : State) (body : Fin 8 → Fin 8 → State) : Answer :=
  match regIndex? d, regIndex? e with
  | some i, some j => .next ((body i j).advance s len)
  | _, _ => .next (s.advance s len)

/-- `x[i] <- v; flags.ZF <- (x[i] == 0)`, the end of most arithmetic and bitwise instructions (R42). -/
def State.result (s : State) (i : Fin 8) (v : Word) : State := (s.setReg i v).zeroFlag v

/-- Writes a 64-bit result to x[1]:x[0] and ZF from the new x[0] (R209 to R212). -/
def State.wideResult (s : State) (low high : Word) : State := ((s.setReg 0 low).setReg 1 high).zeroFlag low

/-! ## Jumps (R118, R119, R141) -/

/-- The target of an 8-bit displacement, from the end of an instruction of `len` bytes (R118). -/
def State.target8 (s : State) (len : Word) (rel : Byte) : Word := s.next len + rel.signExtend 32

/-- The target of a 16-bit displacement (R118). -/
def State.target16 (s : State) (len : Word) (rel : Half) : Word := s.next len + rel.signExtend 32

/-- `if c then pc <- target`, else `pc <- next` (R141). -/
def State.jumpIf (s : State) (c : Bool) (len target : Word) : State :=
  s.setPc (if c then target else s.next len)

/-- The counter loop: `x[2] <- x[2] - 1; if x[2] != 0 then pc <- target`, no flags (R282, R295). -/
def State.loopTo (s : State) (len target : Word) : State :=
  let n := s.reg 2 - 1#32
  (s.setReg 2 n).setPc (if n = 0#32 then s.next len else target)

end Sys2Proof.Machine
end

