-- ==== Sys2Proof/Machine/Cycle.lean ====
section
/-!
DEFINITION. What stands around an instruction: fetch (R112), the start and the end of a cycle (R140), and the run loop's
checks (R434 to R438).
-/

namespace Sys2Proof.Machine

/-! ## Fetch (R112, R138) -/

/-- The `n` bytes from `a` up, each address mod 2^32; out of range they are 0 (R72, R112). -/
def State.fetchBytes (s : State) (a : Word) : Nat → List Byte
  | 0 => []
  | n + 1 => s.readByte a :: State.fetchBytes s (a + 1#32) n

/-- The decoder's answer at pc; an instruction has at most 6 bytes (R110, R138). -/
def State.decodeAtPc (s : State) : Decoded := decode (s.fetchBytes s.pc 6)

/-- The reports of fetching `n` bytes from `a` up: one BOUNDS_READ for each byte out of range, in ascending order
(R112, R384). -/
def fetchReports (a : Word) : Nat → List Event
  | 0 => []
  | n + 1 => (if inRange a then [] else [.diag (.boundsRead a)]) ++ fetchReports (a + 1#32) n

/-! ## The interpreter step's frame (R140) -/

/-- The start of a cycle: `lwa <- NONE`, then the fetch of the `n` bytes the decoder needs (R50, R112, R140). -/
def State.beginCycle (s : State) (n : Nat) : State :=
  State.emit { s with lwa := none } (fetchReports s.pc n)

/-- `cycles <- (cycles + 1) mod 2^64` (R48, R140). -/
def State.countCycle (s : State) : State := { s with cycles := s.cycles + 1#64 }

/-! ## The run loop (R435) -/

/-- `run <- Stopped`. -/
def State.stop (s : State) : State := { s with run := .stopped }

/-- An out-of-range pc: IP_OUT_OF_RANGE, then Stopped, with no render (R390, R436). -/
def State.stopOutOfRange (s : State) : State := (s.raise (.ipOutOfRange s.pc)).stop

/-- `shutdown_requested(k)` for the current batch: a request stays until it is found (R437; assumption log 4). -/
def State.shutdownRequested (s : State) : Bool :=
  match s.shutdownAt with
  | none => false
  | some k => decide (k ≤ s.batch)

/-- The end of a cycle whose pc is in range: the next position of the batch, or, after the last one, the render and the
next batch (R435, R438). -/
def State.nextCycle (s : State) : State :=
  if s.bpos + 1 < Config.batchLength then { s with bpos := s.bpos + 1 }
  else State.emit { s with bpos := 0, batch := s.batch + 1 } [.render s.batch]

/-- After an interpreter step: the cycle is counted, then pc is checked (R140, R436). -/
def State.endCycle (s : State) : State :=
  if inRange s.pc then s.countCycle.nextCycle else s.countCycle.stopOutOfRange

/-- What the run loop does next (R435). -/
inductive Gate where
  /-- Nothing: Stopped is final (R434). -/
  | final
  /-- Stop at a batch start, on the host's request (R437). -/
  | shutdown
  /-- Stop before the step, on an out-of-range pc (R436). -/
  | outOfRange
  /-- Run a cycle. -/
  | cycle
deriving DecidableEq, Repr

/-- The run loop's checks before a cycle, in their order (R435): the state, the shutdown request at a batch start, pc. -/
def State.gate (s : State) : Gate :=
  match s.run with
  | .stopped => .final
  | .running =>
    if s.bpos = 0 ∧ s.shutdownRequested then .shutdown
    else if inRange s.pc then .cycle
    else .outOfRange

/-! ## Placing an instruction -/

/-- Where an instruction can be placed whole: at pc if its six bytes are in range, else at BOOT_ADDR. -/
def State.placePc (s : State) : Word :=
  if s.pc.toNat + 6 ≤ Config.memSize then s.pc else Config.bootAddr

/-- The state with the bytes `w` at pc, by raw stores, running and with no shutdown request (assumption log 10). -/
def State.placed (s : State) (w : List Byte) : State :=
  let a := s.placePc
  { s with pc := a, run := .running, shutdownAt := none, mem := Memory.load s.mem a.toNat w }

end Sys2Proof.Machine
end

