-- ==== Sys2Proof/Machine/Arithmetic.lean ====
section
/-!
DEFINITION. Arithmetic (R200 to R224). All operand registers are read before any register is written; every result is taken
modulo 2^32 (R220); ZF is recomputed, and CF is used and written by ADC and SBB alone (R221).
-/

namespace Sys2Proof.Machine

/-- ADD d, e (R200). -/
def execAdd (d e : Byte) (s : State) : Answer :=
  guard2 d e len3 s fun i j => s.result i (s.reg i + s.reg j)

/-- ADDI r, i32 (R201). -/
def execAddi (r : Byte) (i32 : Word) (s : State) : Answer :=
  guard1 r len6 s fun i => s.result i (s.reg i + i32)

/-- SUB d, e (R202). -/
def execSub (d e : Byte) (s : State) : Answer :=
  guard2 d e len3 s fun i j => s.result i (s.reg i - s.reg j)

/-- SUBI r, i32 (R203). -/
def execSubi (r : Byte) (i32 : Word) (s : State) : Answer :=
  guard1 r len6 s fun i => s.result i (s.reg i - i32)

/-- INC r (R204). -/
def execInc (r : Byte) (s : State) : Answer :=
  guard1 r len2 s fun i => s.result i (s.reg i + 1#32)

/-- DEC r (R205). -/
def execDec (r : Byte) (s : State) : Answer :=
  guard1 r len2 s fun i => s.result i (s.reg i - 1#32)

/-- ADC d, e: the exact sum with the incoming CF gives the register, the carry out and ZF (R206). -/
def execAdc (d e : Byte) (s : State) : Answer :=
  guard2 d e len3 s fun i j =>
    let t := carrySum (s.reg i) (s.reg j) s.carryIn
    (s.result i (BitVec.ofNat 32 t)).setCF (decide (2 ^ 32 ≤ t))

/-- SBB d, e: the exact difference with the incoming CF gives the register, the borrow out and ZF (R207). -/
def execSbb (d e : Byte) (s : State) : Answer :=
  guard2 d e len3 s fun i j =>
    let t := borrowDifference (s.reg i) (s.reg j) s.carryIn
    (s.result i (BitVec.ofInt 32 t)).setCF (decide (t < 0))

/-- NEG r (R208). -/
def execNeg (r : Byte) (s : State) : Answer :=
  guard1 r len3 s fun i => s.result i (0#32 - s.reg i)

/-- The exact 64-bit product of MUL (R209). -/
def unsignedProduct (a b : Word) : BitVec 64 := BitVec.ofNat 64 (a.toNat * b.toNat)

/-- The exact signed product of IMUL, taken mod 2^64 (R210). -/
def signedProduct (a b : Word) : BitVec 64 := BitVec.ofInt 64 (a.toInt * b.toInt)

/-- Bits 31..0 of a 64-bit value. -/
def lowWord (p : BitVec 64) : Word := p.extractLsb' 0 32

/-- Bits 63..32 of a 64-bit value. -/
def highWord (p : BitVec 64) : Word := p.extractLsb' 32 32

/-- MUL r: x[1]:x[0] becomes x[0] times x[r] (R209). -/
def execMul (r : Byte) (s : State) : Answer :=
  guard1 r len3 s fun i =>
    let p := unsignedProduct (s.reg 0) (s.reg i)
    s.wideResult (lowWord p) (highWord p)

/-- IMUL r: as MUL, on signed operands (R210). -/
def execImul (r : Byte) (s : State) : Answer :=
  guard1 r len3 s fun i =>
    let p := signedProduct (s.reg 0) (s.reg i)
    s.wideResult (lowWord p) (highWord p)

/-- The unsigned dividend x[1]:x[0] of DIV (R211). -/
def State.unsignedDividend (s : State) : Nat := (s.reg 1).toNat * 2 ^ 32 + (s.reg 0).toNat

/-- The dividend x[1]:x[0] of IDIV, as a two's-complement 64-bit number (R212). -/
def State.signedDividend (s : State) : Int := (s.reg 1 ++ s.reg 0 : BitVec 64).toInt

/-- DIV r: quotient to x[0] mod 2^32, remainder to x[1]; a zero divisor is reported and changes nothing (R211, R386). -/
def execDiv (r : Byte) (s : State) : Answer :=
  guard1 r len3 s fun i =>
    let dv := (s.reg i).toNat
    if dv = 0 then s.raise (.divZero s.pc)
    else
      let n := s.unsignedDividend
      s.wideResult (BitVec.ofNat 32 (n / dv)) (BitVec.ofNat 32 (n % dv))

/-- IDIV r: the quotient rounds toward zero, the remainder takes the dividend's sign, both mod 2^32 (R212, R386). -/
def execIdiv (r : Byte) (s : State) : Answer :=
  guard1 r len3 s fun i =>
    if s.reg i = 0#32 then s.raise (.divZero s.pc)
    else
      let dv := (s.reg i).toInt
      let n := s.signedDividend
      let q := Int.tdiv n dv
      s.wideResult (BitVec.ofInt 32 q) (BitVec.ofInt 32 (n - q * dv))

end Sys2Proof.Machine
end

