-- ==== Sys2Proof/Machine/Bitwise.lean ====
section
/-!
DEFINITION. Bitwise operations, shifts, rotates, bit scans and population count (R240 to R250). None writes CF.
-/

namespace Sys2Proof.Machine

/-- AND d, e (R240). -/
def execAnd (d e : Byte) (s : State) : Answer :=
  guard2 d e len3 s fun i j => s.result i (s.reg i &&& s.reg j)

/-- OR d, e (R241). -/
def execOr (d e : Byte) (s : State) : Answer :=
  guard2 d e len3 s fun i j => s.result i (s.reg i ||| s.reg j)

/-- XOR d, e (R242). -/
def execXor (d e : Byte) (s : State) : Answer :=
  guard2 d e len3 s fun i j => s.result i (s.reg i ^^^ s.reg j)

/-- NOT r (R243). -/
def execNot (r : Byte) (s : State) : Answer :=
  guard1 r len3 s fun i => s.result i (s.reg i ^^^ 0xFFFFFFFF#32)

/-- The result of SHL: a count of 32 or more gives 0 (R244). -/
def shiftLeft (v : Word) (c : Nat) : Word := if 32 ≤ c then 0#32 else BitVec.ofNat 32 (v.toNat * 2 ^ c)

/-- The result of SHR: a count of 32 or more gives 0 (R245). -/
def shiftRight (v : Word) (c : Nat) : Word := if 32 ≤ c then 0#32 else BitVec.ofNat 32 (v.toNat / 2 ^ c)

/-- The rotate amount, `i8 AND 31` (R246, R247). -/
def rotateCount (i8 : Byte) : Nat := (i8 &&& 31#8).toNat

/-- The result of ROL by `c` from 0 to 31 (R246). -/
def rotateLeft (v : Word) (c : Nat) : Word := BitVec.ofNat 32 (v.toNat * 2 ^ c + v.toNat / 2 ^ (32 - c))

/-- The result of ROR by `c` from 0 to 31 (R247). -/
def rotateRight (v : Word) (c : Nat) : Word := BitVec.ofNat 32 (v.toNat / 2 ^ c + v.toNat * 2 ^ (32 - c))

/-- SHL r, i8 (R244). -/
def execShl (r i8 : Byte) (s : State) : Answer :=
  guard1 r len3 s fun i => s.result i (shiftLeft (s.reg i) i8.toNat)

/-- SHR r, i8 (R245). -/
def execShr (r i8 : Byte) (s : State) : Answer :=
  guard1 r len3 s fun i => s.result i (shiftRight (s.reg i) i8.toNat)

/-- ROL r, i8 (R246). -/
def execRol (r i8 : Byte) (s : State) : Answer :=
  guard1 r len3 s fun i => s.result i (rotateLeft (s.reg i) (rotateCount i8))

/-- ROR r, i8 (R247). -/
def execRor (r i8 : Byte) (s : State) : Answer :=
  guard1 r len3 s fun i => s.result i (rotateRight (s.reg i) (rotateCount i8))

/-- The numbers of the bits that are 1, rising. -/
def setBits (v : Word) : List Nat := (List.range 32).filter fun k => v.getLsbD k

/-- BSF d, e: the lowest bit that is 1; a zero source sets ZF and writes no register (R248). -/
def execBsf (d e : Byte) (s : State) : Answer :=
  guard2 d e len4 s fun i j =>
    match (setBits (s.reg j)).head? with
    | none => s.setZF true
    | some k => (s.setZF false).setReg i (BitVec.ofNat 32 k)

/-- BSR d, e: the highest bit that is 1; a zero source sets ZF and writes no register (R249). -/
def execBsr (d e : Byte) (s : State) : Answer :=
  guard2 d e len4 s fun i j =>
    match (setBits (s.reg j)).getLast? with
    | none => s.setZF true
    | some k => (s.setZF false).setReg i (BitVec.ofNat 32 k)

/-- POPCNT d, e: how many bits are 1; ZF says that the source was zero (R250). -/
def execPopcnt (d e : Byte) (s : State) : Answer :=
  guard2 d e len4 s fun i j =>
    (s.setReg i (BitVec.ofNat 32 (setBits (s.reg j)).length)).zeroFlag (s.reg j)

end Sys2Proof.Machine
end

