-- ==== Sys2Proof/Machine/Control.lean ====
section
/-!
DEFINITION. Comparison and control flow (R270 to R297). Only CMP and CMPI write flags. Any 32-bit value is a legal target;
the run loop, not the jump, acts on one out of range (R296).
-/

namespace Sys2Proof.Machine

/-- CMP d, e (R270). -/
def execCmp (d e : Byte) (s : State) : Answer :=
  guard2 d e len3 s fun i j => s.compareFlags (s.reg i).toNat (s.reg j).toNat

/-- CMPI r, i32 (R271). -/
def execCmpi (r : Byte) (i32 : Word) (s : State) : Answer :=
  guard1 r len6 s fun i => s.compareFlags (s.reg i).toNat i32.toNat

/-- JMP a32 (R273). -/
def execJmp (a32 : Word) (s : State) : Answer := .next (s.setPc a32)

/-- JZ a32 (R274). -/
def execJz (a32 : Word) (s : State) : Answer := .next (s.jumpIf (s.holds .z) len5 a32)

/-- JNZ a32 (R275). -/
def execJnz (a32 : Word) (s : State) : Answer := .next (s.jumpIf (s.holds .nz) len5 a32)

/-- JC a32 (R276). -/
def execJc (a32 : Word) (s : State) : Answer := .next (s.jumpIf (s.holds .c) len5 a32)

/-- JNC a32 (R277). -/
def execJnc (a32 : Word) (s : State) : Answer := .next (s.jumpIf (s.holds .nc) len5 a32)

/-- JA a32 (R278). -/
def execJa (a32 : Word) (s : State) : Answer := .next (s.jumpIf (s.holds .a) len5 a32)

/-- JB a32: JC's condition under another opcode (R279). -/
def execJb (a32 : Word) (s : State) : Answer := .next (s.jumpIf (s.holds .b) len5 a32)

/-- CALL a32: pushes the address of the byte after it (R280). -/
def execCall (a32 : Word) (s : State) : Answer := .next ((s.pushWord (s.next len5)).setPc a32)

/-- RET (R281). -/
def execRet (s : State) : Answer := .next ((s.popped 4).setPc (s.readWord s.sp))

/-- LOOP a32 (R282). -/
def execLoop (a32 : Word) (s : State) : Answer := .next (s.loopTo len5 a32)

/-- JMP.r8 rel8 (R283). -/
def execJmpR8 (rel8 : Byte) (s : State) : Answer := .next (s.setPc (s.target8 len2 rel8))

/-- JMP.r16 rel16 (R284). -/
def execJmpR16 (rel16 : Half) (s : State) : Answer := .next (s.setPc (s.target16 len3 rel16))

/-- JC.r8 rel8 (R285). -/
def execJcR8 (rel8 : Byte) (s : State) : Answer := .next (s.jumpIf (s.holds .c) len2 (s.target8 len2 rel8))

/-- JNC.r8 rel8 (R286). -/
def execJncR8 (rel8 : Byte) (s : State) : Answer := .next (s.jumpIf (s.holds .nc) len2 (s.target8 len2 rel8))

/-- JZ.r8 rel8 (R287). -/
def execJzR8 (rel8 : Byte) (s : State) : Answer := .next (s.jumpIf (s.holds .z) len2 (s.target8 len2 rel8))

/-- JNZ.r8 rel8 (R288). -/
def execJnzR8 (rel8 : Byte) (s : State) : Answer := .next (s.jumpIf (s.holds .nz) len2 (s.target8 len2 rel8))

/-- JA.r8 rel8 (R289). -/
def execJaR8 (rel8 : Byte) (s : State) : Answer := .next (s.jumpIf (s.holds .a) len2 (s.target8 len2 rel8))

/-- JS.r8 rel8: the one jump that reads flags bit 7; "not a contract" (R46, R290, U5; assumption log 17). -/
def execJsR8 (rel8 : Byte) (s : State) : Answer := .next (s.jumpIf (s.holds .s) len2 (s.target8 len2 rel8))

/-- JA.r16 rel16, the two-byte-prefixed form of 4 bytes (R291). -/
def execJaR16 (rel16 : Half) (s : State) : Answer := .next (s.jumpIf (s.holds .a) len4 (s.target16 len4 rel16))

/-- CALL.r16 rel16: saves the low 16 bits of the return address (R292). -/
def execCallR16 (rel16 : Half) (s : State) : Answer :=
  .next ((s.pushHalf ((s.next len3).extractLsb' 0 16)).setPc (s.target16 len3 rel16))

/-- RET16: the popped word, zero-extended (R293). -/
def execRet16 (s : State) : Answer := .next ((s.popped 2).setPc ((s.readHalf s.sp).zeroExtend 32))

/-- RET16 i16: adds the unsigned adjustment to x[7] after the pop (R294). -/
def execRet16Imm (i16 : Half) (s : State) : Answer :=
  let t := s.popped 2
  .next ((t.setReg 7 (t.sp + i16.zeroExtend 32)).setPc ((s.readHalf s.sp).zeroExtend 32))

/-- LOOP.r8 rel8 (R295). -/
def execLoopR8 (rel8 : Byte) (s : State) : Answer := .next (s.loopTo len2 (s.target8 len2 rel8))

end Sys2Proof.Machine
end

