-- ==== Sys2Proof/Machine/DataMovement.lean ====
section
/-!
DEFINITION. Data movement (R160 to R175): moves, loads, stores, the stack. No instruction here reads or writes flags.
-/

namespace Sys2Proof.Machine

/-- MOV d, e: `x[d] <- x[e]` (R160). -/
def execMov (d e : Byte) (s : State) : Answer :=
  guard2 d e len3 s fun i j => s.setReg i (s.reg j)

/-- MOVI r, i32: `x[r] <- i32` (R161). -/
def execMovi (r : Byte) (i32 : Word) (s : State) : Answer :=
  guard1 r len6 s fun i => s.setReg i i32

/-- LDA r, [a32]: `x[r] <- MemRead(a32, 4)` (R162). -/
def execLda (r : Byte) (a32 : Word) (s : State) : Answer :=
  guard1 r len6 s fun i => (s.noteRead a32 4).setReg i (s.readWord a32)

/-- STA [a32], r: `MemWrite(a32, 4, x[r])` (R163). -/
def execSta (r : Byte) (a32 : Word) (s : State) : Answer :=
  guard1 r len6 s fun i => s.memWrite a32 (bytes32 (s.reg i))

/-- LDR d, [e]: `x[d] <- MemRead(x[e], 4)` (R164). -/
def execLdr (d e : Byte) (s : State) : Answer :=
  guard2 d e len3 s fun i j => (s.noteRead (s.reg j) 4).setReg i (s.readWord (s.reg j))

/-- STR [d], e: `MemWrite(x[d], 4, x[e])` (R165). -/
def execStr (d e : Byte) (s : State) : Answer :=
  guard2 d e len3 s fun i j => s.memWrite (s.reg i) (bytes32 (s.reg j))

/-- LDZB d, [e]: `x[d] <- zext_8(MemRead(x[e], 1))` (R166). -/
def execLdzb (d e : Byte) (s : State) : Answer :=
  guard2 d e len3 s fun i j => (s.noteRead (s.reg j) 1).setReg i ((s.readByte (s.reg j)).zeroExtend 32)

/-- LDSB d, [e]: `x[d] <- sext_8(MemRead(x[e], 1))` (R167). -/
def execLdsb (d e : Byte) (s : State) : Answer :=
  guard2 d e len3 s fun i j => (s.noteRead (s.reg j) 1).setReg i ((s.readByte (s.reg j)).signExtend 32)

/-- STRB [d], e: `MemWrite(x[d], 1, x[e][7:0])` (R168). -/
def execStrb (d e : Byte) (s : State) : Answer :=
  guard2 d e len3 s fun i j => s.memWrite (s.reg i) [s.regLow8 j]

/-- PUSH r: the value is read before x[7] moves (R169). -/
def execPush (r : Byte) (s : State) : Answer :=
  guard1 r len2 s fun i => s.pushWord (s.reg i)

/-- POP r: x[r] is written last, so POP r7 leaves the popped value (R170). -/
def execPop (r : Byte) (s : State) : Answer :=
  guard1 r len2 s fun i => (s.popped 4).setReg i (s.readWord s.sp)

/-- MOV8 r, i8: `x[r][7:0] <- i8` (R171). -/
def execMov8 (r : BitVec 3) (i8 : Byte) (s : State) : Answer :=
  .next ((s.setRegLow8 (regOfField r) i8).advance s len2)

/-- MOV16 r, i16: `x[r][15:0] <- i16` (R172). -/
def execMov16 (r : BitVec 3) (i16 : Half) (s : State) : Answer :=
  .next ((s.setRegLow16 (regOfField r) i16).advance s len3)

/-- PUSH16 r: pushes x[r][15:0], read before x[7] moves (R173). -/
def execPush16 (r : BitVec 3) (s : State) : Answer :=
  .next ((s.pushHalf (s.regLow16 (regOfField r))).advance s len1)

/-- POP16 r: `x[r][15:0] <- v` after x[7] moved, so POP16 r7 keeps the increment's upper half (R174). -/
def execPop16 (r : BitVec 3) (s : State) : Answer :=
  .next (((s.popped 2).setRegLow16 (regOfField r) (s.readHalf s.sp)).advance s len1)

end Sys2Proof.Machine
end

