-- ==== Sys2Proof/Machine/Strings.lean ====
section
/-!
DEFINITION. String-style block operations (R320 to R324): x[4] is the source cursor, x[5] the destination cursor, both flat
addresses, and x[2] the count of the repeat forms. A whole repeat form runs inside one step (R322).
-/

namespace Sys2Proof.Machine

/-- Moves both cursors up by one, mod 2^32 (R320, R321). -/
def State.stepCursors (s : State) : State :=
  (s.setReg 4 (s.reg 4 + 1#32)).setReg 5 (s.reg 5 + 1#32)

/-- The body of CMPSB: compares the source byte with the destination byte, then moves the cursors (R320). -/
def State.compareByte (s : State) : State :=
  let a := s.readByte (s.reg 4)
  let b := s.readByte (s.reg 5)
  let t := (s.noteRead (s.reg 4) 1).noteRead (s.reg 5) 1
  (t.compareFlags a.toNat b.toNat).stepCursors

/-- The body of MOVSB: copies a byte through the bus, then moves the cursors (R321). -/
def State.moveByte (s : State) : State :=
  let v := s.readByte (s.reg 4)
  ((s.noteRead (s.reg 4) 1).memWrite (s.reg 5) [v]).stepCursors

/-- `x[2] <- x[2] - 1`. -/
def State.countDown (s : State) : State := s.setReg 2 (s.reg 2 - 1#32)

/-- The loop of REP MOVSB (R322): `while x[2] != 0`, at most `fuel` times; x[2] iterations are all it takes
(assumption log 21). -/
def State.repeatMove : Nat → State → State
  | 0, s => s
  | fuel + 1, s => if s.reg 2 = 0#32 then s else State.repeatMove fuel s.moveByte.countDown

/-- The loop of REP CMPSB (R323): as REP MOVSB's, left after an iteration that found ZF = 0. -/
def State.repeatCompare : Nat → State → State
  | 0, s => s
  | fuel + 1, s =>
    if s.reg 2 = 0#32 then s
    else
      let t := s.compareByte.countDown
      if t.zf then State.repeatCompare fuel t else t

/-- CMPSB (R320). -/
def execCmpsb (s : State) : Answer := .next (s.compareByte.advance s len1)

/-- MOVSB (R321). -/
def execMovsb (s : State) : Answer := .next (s.moveByte.advance s len1)

/-- REP MOVSB (R322). -/
def execRepMovsb (s : State) : Answer := .next ((State.repeatMove (s.reg 2).toNat s).advance s len2)

/-- REP CMPSB (R323). -/
def execRepCmpsb (s : State) : Answer := .next ((State.repeatCompare (s.reg 2).toNat s).advance s len2)

end Sys2Proof.Machine
end

