-- ==== Sys2Proof/Machine/Services.lean ====
section
/-!
DEFINITION. The two platform services behind INT (R393 to R397): teletype output and disk read-sectors. A service runs
inside the INT's step and writes memory through the bus.
-/

namespace Sys2Proof.Machine

/-! ## Teletype (R394, R395) -/

/-- The address of the character cell under the cursor, a 32-bit sum (R394, R9; assumption log 16). -/
def State.cursorCell (s : State) : Word :=
  s.setup.textBase + BitVec.ofNat 32 ((s.curRow * s.setup.textCols + s.curCol) * 2)

/-- Puts the cursor at a row and a column. -/
def State.setCursor (s : State) (row col : Nat) : State := { s with curRow := row, curCol := col }

/-- The cursor advance: wraps to column 0 of the next row, clamps at the last row (R395, D52). -/
def State.advanceCursor (s : State) : State :=
  if s.curCol + 1 = s.setup.textCols then
    s.setCursor (if s.curRow + 1 < s.setup.textRows then s.curRow + 1 else s.curRow) 0
  else s.setCursor s.curRow (s.curCol + 1)

/-- The teletype service: character then attribute into the cursor's cell, then the cursor advances (R394). -/
def State.teletype (s : State) : State :=
  let cell := s.cursorCell
  ((s.memWrite cell [s.regLow8 0]).memWrite (cell + 1#32) [Config.ttyAttr]).advanceCursor

/-! ## Disk read-sectors (R396, R397) -/

/-- What a disk read is asked for, decoded from the registers (R396). -/
structure DiskRequest where
  count    : Nat
  cylinder : Nat
  head     : Nat
  sector   : Nat
  /-- The destination base, `es*16 + offset` as a 32-bit sum (D51). -/
  dest     : Word
deriving DecidableEq, Repr

/-- The request in x[0] to x[3] and es; the drive, x[1][7:0], is ignored (R396). -/
def State.diskRequest (s : State) : DiskRequest where
  count := ((s.reg 0).extractLsb' 0 8).toNat
  cylinder := ((s.reg 2).extractLsb' 8 8).toNat + 256 * ((s.reg 2).extractLsb' 6 2).toNat
  head := ((s.reg 1).extractLsb' 8 8).toNat
  sector := ((s.reg 2).extractLsb' 0 6).toNat
  dest := (s.seg .es).zeroExtend 32 * 16#32 + (s.regLow16 3).zeroExtend 32

/-- The linear offset of a CHS address, a mathematical integer (R396). A sector of 0 makes it negative on cylinder 0, head 0
only. On every later track R396 disagrees with itself: its pseudocode gives the last sector of the track before, which can be
read, while its corner case says that the read fails. That the pseudocode holds there is a DESIGN CHOICE, unsafe (assumption
log 23). -/
def diskOffset (cylinder head sector : Nat) : Int :=
  (((cylinder * Config.heads + head) * Config.sectorsPerTrack : Nat) + ((sector : Int) - 1)) * Config.sectorSize

/-- The bytes of the sector at an offset, none unless it lies wholly within an attached image (R396, R389). -/
def sectorAt (image : Option (List Byte)) (off : Int) : Option (List Byte) :=
  match image with
  | none => none
  | some bytes =>
    if off < 0 ∨ (bytes.length : Int) < off + Config.sectorSize then none
    else some ((bytes.drop off.toNat).take Config.sectorSize)

/-- Copies a sector's bytes to memory from `a` up, each byte an access of its own (R396). -/
def State.copyBytes (s : State) (a : Word) : List Byte → State
  | [] => s
  | b :: bs => State.copyBytes (s.memWrite a [b]) (a + 1#32) bs

/-- The failure of a disk read at offset `off`: DISK_IO with the starting CHS triple, and CF set (R389, R397). -/
def State.diskFail (s : State) (q : DiskRequest) (off : Int) : State :=
  (s.raise (.diskIo s.pc q.cylinder q.head q.sector off)).setCF true

/-- The sectors still to read, `i` of them read already: copies each, clears CF after the last, and stops at the first that
cannot be read (R396, R397). -/
def State.readSectors (q : DiskRequest) : Nat → Nat → State → State
  | 0, _, s => s.setCF false
  | n + 1, i, s =>
    let off := diskOffset q.cylinder q.head q.sector + ((i * Config.sectorSize : Nat) : Int)
    match sectorAt s.setup.diskImage off with
    | none => s.diskFail q off
    | some bytes =>
      State.readSectors q n (i + 1) (s.copyBytes (q.dest + BitVec.ofNat 32 (i * Config.sectorSize)) bytes)

/-- The disk read-sectors service (R396). -/
def State.diskRead (s : State) : State := State.readSectors s.diskRequest s.diskRequest.count 0 s

/-! ## The service table (R393) -/

/-- A service. -/
inductive Service where
  | teletype
  | diskRead
deriving DecidableEq, Repr

/-- The service table: fixed, with exactly two entries (R393). -/
def serviceTable : List (Byte × Service) := [(Config.intTty, .teletype), (Config.intDisk, .diskRead)]

/-- What a service does. -/
def State.serve (s : State) : Service → State
  | .teletype => s.teletype
  | .diskRead => s.diskRead

/-- The service call of an interrupt number; a number that is no key is silently ignored (R340). -/
def State.softwareInterrupt (s : State) (n : Byte) : State :=
  match serviceTable.lookup n with
  | some v => s.serve v
  | none => s

end Sys2Proof.Machine
end

