-- ==== Sys2Proof/Machine/System.lean ====
section
/-!
DEFINITION. System, meta and segment-load instructions (R340 to R352). None is privileged: there is one mode (R352, R400).
-/

namespace Sys2Proof.Machine

/-- INT i8: performs the service of the number, once; pc goes to next after it (R340). -/
def execInt (i8 : Byte) (s : State) : Answer := .next ((s.softwareInterrupt i8).advance s len2)

/-- HLT: reports, and does not stop the machine (R341, R388). -/
def execHlt (s : State) : Answer := .next ((s.raise (.halt s.pc)).advance s len1)

/-- UD2: reports, and nothing else (R350, R387). -/
def execUd2 (s : State) : Answer := .next ((s.raise (.ud s.pc)).advance s len2)

/-- CLI: `flags.IF2 <- 0` (R342). -/
def execCli (s : State) : Answer := .next ((s.setFlag if2Bit false).advance s len1)

/-- STI: `flags.IF2 <- 1` (R343). -/
def execSti (s : State) : Answer := .next ((s.setFlag if2Bit true).advance s len1)

/-- CLI.L: `flags.IF2 <- 0`, not IF9 (R344). -/
def execCliL (s : State) : Answer := .next ((s.setFlag if2Bit false).advance s len1)

/-- STI.L: `flags.IF9 <- 1`, the one variant of the second convention (R345). -/
def execStiL (s : State) : Answer := .next ((s.setFlag if9Bit true).advance s len1)

/-- SYSCALL: enters the fixed handler with the address of the next instruction as the return address (R346). -/
def execSyscall (s : State) : Answer := .next (s.enterHandler (s.next len2))

/-- SYSRET: returns from the handler (R347). -/
def execSysret (s : State) : Answer := .next s.returnFromHandler

/-- CPUID: the four words of the request in x[0] (R348). -/
def execCpuid (s : State) : Answer :=
  let w := cpuidWordsOf s.setup (s.reg 0)
  .next (((((s.setReg 0 w.w0).setReg 1 w.w1).setReg 2 w.w2).setReg 3 w.w3).advance s len2)

/-- RDTSC: the counter before this cycle's increment, low half to x[0], high half to x[1] (R349). -/
def execRdtsc (s : State) : Answer :=
  .next (((s.setReg 0 (s.cycles.extractLsb' 0 32)).setReg 1 (s.cycles.extractLsb' 32 32)).advance s len2)

/-- MOVSEG k, r: `seg[k] <- x[r][15:0]` (R351). A field of 6 or 7 is not an instruction but the decode error of its two bytes
(R135); the decoder never gives one, and the meaning takes that error. -/
def execMovseg (k r : BitVec 3) (s : State) : Answer :=
  match Sel.ofField k with
  | some q => .next ((s.setSeg q (s.regLow16 (regOfField r))).advance s len2)
  | none => .next (s.takeDecodeError (encode (.movseg k r)))

end Sys2Proof.Machine
end

