-- ==== Sys2Proof/Machine/Dispatch.lean ====
section
/-! DEFINITION. The dispatch: one arm for each constructor of Instr, in the order of spec/opcode_table.json. -/

namespace Sys2Proof.Machine

/-- What an instruction does, in a state whose pc is the address of its first byte (R140). -/
def exec (i : Instr) (s : State) : Host.Outcome State Fault Refusal :=
  match i with
  | .mov d e => Sys2Proof.Machine.execMov d e s
  | .movi r i32 => Sys2Proof.Machine.execMovi r i32 s
  | .lda r a32 => Sys2Proof.Machine.execLda r a32 s
  | .sta r a32 => Sys2Proof.Machine.execSta r a32 s
  | .ldr d e => Sys2Proof.Machine.execLdr d e s
  | .str d e => Sys2Proof.Machine.execStr d e s
  | .ldzb d e => Sys2Proof.Machine.execLdzb d e s
  | .ldsb d e => Sys2Proof.Machine.execLdsb d e s
  | .strb d e => Sys2Proof.Machine.execStrb d e s
  | .push r => Sys2Proof.Machine.execPush r s
  | .pop r => Sys2Proof.Machine.execPop r s
  | .add d e => Sys2Proof.Machine.execAdd d e s
  | .addi r i32 => Sys2Proof.Machine.execAddi r i32 s
  | .sub d e => Sys2Proof.Machine.execSub d e s
  | .subi r i32 => Sys2Proof.Machine.execSubi r i32 s
  | .inc r => Sys2Proof.Machine.execInc r s
  | .dec r => Sys2Proof.Machine.execDec r s
  | .adc d e => Sys2Proof.Machine.execAdc d e s
  | .sbb d e => Sys2Proof.Machine.execSbb d e s
  | .cmp d e => Sys2Proof.Machine.execCmp d e s
  | .cmpi r i32 => Sys2Proof.Machine.execCmpi r i32 s
  | .and d e => Sys2Proof.Machine.execAnd d e s
  | .or d e => Sys2Proof.Machine.execOr d e s
  | .xor d e => Sys2Proof.Machine.execXor d e s
  | .shl r i8 => Sys2Proof.Machine.execShl r i8 s
  | .shr r i8 => Sys2Proof.Machine.execShr r i8 s
  | .rol r i8 => Sys2Proof.Machine.execRol r i8 s
  | .ror r i8 => Sys2Proof.Machine.execRor r i8 s
  | .jmp a32 => Sys2Proof.Machine.execJmp a32 s
  | .jz a32 => Sys2Proof.Machine.execJz a32 s
  | .jnz a32 => Sys2Proof.Machine.execJnz a32 s
  | .jc a32 => Sys2Proof.Machine.execJc a32 s
  | .jnc a32 => Sys2Proof.Machine.execJnc a32 s
  | .ja a32 => Sys2Proof.Machine.execJa a32 s
  | .jb a32 => Sys2Proof.Machine.execJb a32 s
  | .call a32 => Sys2Proof.Machine.execCall a32 s
  | .ret => Sys2Proof.Machine.execRet s
  | .loop a32 => Sys2Proof.Machine.execLoop a32 s
  | .cli => Sys2Proof.Machine.execCli s
  | .sti => Sys2Proof.Machine.execSti s
  | .push16 r => Sys2Proof.Machine.execPush16 r s
  | .pop16 r => Sys2Proof.Machine.execPop16 r s
  | .jcR8 rel8 => Sys2Proof.Machine.execJcR8 rel8 s
  | .jncR8 rel8 => Sys2Proof.Machine.execJncR8 rel8 s
  | .jzR8 rel8 => Sys2Proof.Machine.execJzR8 rel8 s
  | .jnzR8 rel8 => Sys2Proof.Machine.execJnzR8 rel8 s
  | .jaR8 rel8 => Sys2Proof.Machine.execJaR8 rel8 s
  | .jsR8 rel8 => Sys2Proof.Machine.execJsR8 rel8 s
  | .movseg k r => Sys2Proof.Machine.execMovseg k r s
  | .movsb => Sys2Proof.Machine.execMovsb s
  | .cmpsb => Sys2Proof.Machine.execCmpsb s
  | .mov8 r i8 => Sys2Proof.Machine.execMov8 r i8 s
  | .mov16 r i16 => Sys2Proof.Machine.execMov16 r i16 s
  | .ret16Imm i16 => Sys2Proof.Machine.execRet16Imm i16 s
  | .ret16 => Sys2Proof.Machine.execRet16 s
  | .int i8 => Sys2Proof.Machine.execInt i8 s
  | .loopR8 rel8 => Sys2Proof.Machine.execLoopR8 rel8 s
  | .callR16 rel16 => Sys2Proof.Machine.execCallR16 rel16 s
  | .jmpR16 rel16 => Sys2Proof.Machine.execJmpR16 rel16 s
  | .jmpR8 rel8 => Sys2Proof.Machine.execJmpR8 rel8 s
  | .hlt => Sys2Proof.Machine.execHlt s
  | .cliL => Sys2Proof.Machine.execCliL s
  | .stiL => Sys2Proof.Machine.execStiL s
  | .syscall => Sys2Proof.Machine.execSyscall s
  | .sysret => Sys2Proof.Machine.execSysret s
  | .ud2 => Sys2Proof.Machine.execUd2 s
  | .rdtsc => Sys2Proof.Machine.execRdtsc s
  | .jaR16 rel16 => Sys2Proof.Machine.execJaR16 rel16 s
  | .cpuid => Sys2Proof.Machine.execCpuid s
  | .popcnt d e => Sys2Proof.Machine.execPopcnt d e s
  | .bsf d e => Sys2Proof.Machine.execBsf d e s
  | .bsr d e => Sys2Proof.Machine.execBsr d e s
  | .repMovsb => Sys2Proof.Machine.execRepMovsb s
  | .repCmpsb => Sys2Proof.Machine.execRepCmpsb s
  | .not r => Sys2Proof.Machine.execNot r s
  | .neg r => Sys2Proof.Machine.execNeg r s
  | .mul r => Sys2Proof.Machine.execMul r s
  | .imul r => Sys2Proof.Machine.execImul r s
  | .div r => Sys2Proof.Machine.execDiv r s
  | .idiv r => Sys2Proof.Machine.execIdiv r s

end Sys2Proof.Machine
end

