-- ==== Sys2Proof/Machine/Step.lean ====
section
/-!
DEFINITION. One step of the machine: one cycle of the run loop around the interpreter step (R140, R435), and the placing of
one instruction where the next step fetches it.
-/

namespace Sys2Proof.Machine

/-- One cycle of the run loop (R435). In a stopped machine nothing happens (R434; assumption log 7); a shutdown found at a
batch start stops the machine with no cycle run (R437; assumption log 8); else the interpreter runs one instruction, or
takes one decode error, and the run loop checks pc (R140, R436). -/
def step (s : State) : Host.Outcome State Fault Refusal :=
  match s.gate with
  | .final => .next s
  | .shutdown => .next s.stop
  | .outOfRange => .next s.stopOutOfRange
  | .cycle =>
    match s.decodeAtPc with
    | .error e => .next ((s.beginCycle e.bytes.length).takeDecodeError e.bytes).endCycle
    | .instr i =>
      match exec i (s.beginCycle i.length) with
      | .next t => .next t.endCycle
      | .fault f => .fault f
      | .refused r => .refused r

/-- The state with the instruction of an opcode-table word (`tableWindow`) where the next step fetches it. -/
def State.withFetchWord (s : State) (nbits w : Nat) : State := s.placed (tableWindow nbits w)

end Sys2Proof.Machine
end

