-- ==== Sys2Proof/Safety.lean ====
section
/-!
DEFINITION. The terms that statements use: what a good state is, what a safe step is, and what an instruction leaves alone
(its frame). Nothing here is used by the machine.
-/

namespace Sys2Proof.Machine

/-! ## Good states and safe steps -/

/-- What holds of a machine between two steps: memory is in its canonical form, the cursor is in the text window (R51), the
batch position is one of 0 to 999 (R53), and a running machine's pc is in range (R39, R436). -/
structure Inv (s : State) : Prop where
  memory : Memory.wf s.mem = true
  row    : s.curRow < s.setup.textRows
  column : s.curCol < s.setup.textCols
  bpos   : s.bpos < Config.batchLength
  pc     : s.run = .running → inRange s.pc = true

/-- The step completes: the machine neither faults nor refuses (R143). -/
def StepSafe (s : State) : Prop := ∃ t, step s = .next t

/-! ## Addresses -/

/-- The access of `n` bytes from `a` up, addresses mod 2^32, holds the byte at `x` (R13). -/
def inAccess (a : Word) (n : Nat) (x : Word) : Bool := decide ((x - a).toNat < n)

/-! ## Outputs of an access -/

/-- What a data read of `n` bytes at `a` reports (R74). -/
def readReport (a : Word) (n : Nat) : List Event :=
  if spanInRange a n then [] else [.diag (.boundsRead a)]

/-- What a data write of `n` bytes at `a` reports (R74). -/
def writeReport (a : Word) (n : Nat) : List Event :=
  if spanInRange a n then [] else [.diag (.boundsWrite a)]

/-- The hook events of the byte writes of one access, byte by byte (R80, R81). -/
def accessHooks (hooks : List Hook) (a : Word) : List Byte → List Event
  | [] => []
  | b :: bs => hookEvents hooks a b ++ accessHooks hooks (a + 1#32) bs

/-- Everything a write access outputs (R74, R81, R86). -/
def storeOutputs (hooks : List Hook) (a : Word) (bytes : List Byte) : List Event :=
  writeReport a bytes.length ++ accessHooks hooks a bytes

/-! ## Frames -/

/-- `t` has what `s` has, but for the registers `rs`, the flag bits `bits`, pc, memory, lwa and the outputs. -/
structure KeepsRest (s t : State) (rs : List (Fin 8)) (bits : List Nat) : Prop where
  regs       : ∀ i, i ∉ rs → t.reg i = s.reg i
  flags      : ∀ k, k ∉ bits → t.flag k = s.flag k
  segs       : t.segs = s.segs
  curRow     : t.curRow = s.curRow
  curCol     : t.curCol = s.curCol
  cycles     : t.cycles = s.cycles
  run        : t.run = s.run
  bpos       : t.bpos = s.bpos
  batch      : t.batch = s.batch
  setup      : t.setup = s.setup
  shutdownAt : t.shutdownAt = s.shutdownAt

/-- As `KeepsRest`, and nothing is stored: lwa and every byte of memory are unchanged, and the outputs grow by `new`. -/
structure NoStore (s t : State) (rs : List (Fin 8)) (bits : List Nat) (new : List Event) : Prop
    extends KeepsRest s t rs bits where
  lwa    : t.lwa = s.lwa
  memory : ∀ x, t.readByte x = s.readByte x
  events : t.events = s.events ++ new

/-- As `KeepsRest`, and `bytes` are stored at `a`, `a + 1`, … (R80): each byte in range is stored and every other byte of memory
is unchanged; lwa becomes `last`, and the outputs grow by `new`. -/
structure Stores (s t : State) (rs : List (Fin 8)) (bits : List Nat) (a : Word) (bytes : List Byte)
    (last : Option Word) (new : List Event) : Prop extends KeepsRest s t rs bits where
  lwa     : t.lwa = last
  stored  : ∀ x, inAccess a bytes.length x = true → inRange x = true →
    t.readByte x = bytes.getD (x - a).toNat 0#8
  outside : ∀ x, inAccess a bytes.length x = false → t.readByte x = s.readByte x
  events  : t.events = s.events ++ new

/-- One write access of `bytes` at `a` (R80 to R82): lwa is `a`, and the outputs are those of the access. -/
def OneStore (s t : State) (rs : List (Fin 8)) (bits : List Nat) (a : Word) (bytes : List Byte) : Prop :=
  Stores s t rs bits a bytes (some a) (storeOutputs s.setup.hooks a bytes)

/-- Nothing changes but pc. -/
def Unchanged (s t : State) : Prop := NoStore s t [] [] []

/-- `x[i] <- v`, and nothing else but pc. -/
def Assigns (s t : State) (i : Fin 8) (v : Word) : Prop := t.reg i = v ∧ NoStore s t [i] [] []

/-- `x[i] <- v; flags.ZF <- (x[i] == 0)`, and nothing else but pc (R42). -/
def Results (s t : State) (i : Fin 8) (v : Word) : Prop :=
  t.reg i = v ∧ t.zf = decide (v = 0#32) ∧ NoStore s t [i] [zfBit] []

/-! ## The template of an instruction's rule (R15, R16) -/

/-- `i` is encoded as `bytes`, and from every state it completes with the effect given. -/
def Completes (i : Instr) (bytes : List Byte) (effect : State → State → Prop) : Prop :=
  encode i = bytes ∧ ∀ s, ∃ t, exec i s = .next t ∧ effect s t

/-- The address of the byte after an instruction of these bytes (R15). -/
def after (s : State) (bytes : List Byte) : Word := s.pc + BitVec.ofNat 32 bytes.length

/-- As `Completes`, for an instruction that writes no pc: `pc <- next` (R141). -/
def Advances (i : Instr) (bytes : List Byte) (effect : State → State → Prop) : Prop :=
  Completes i bytes fun s t => t.pc = after s bytes ∧ effect s t

/-- `guard(r): effect`, for every register index byte `r` (R16): a byte of 8 or more makes the instruction a no-op but for the
pc advance. `opcode` stands before the index byte and `tail` after it. -/
def RegisterRule (c : Byte → Instr) (opcode tail : List Byte) (effect : Fin 8 → State → State → Prop) : Prop :=
  ∀ r : Byte, Advances (c r) (opcode ++ r :: tail) fun s t =>
    if h : r.toNat < 8 then effect ⟨r.toNat, h⟩ s t else Unchanged s t

/-- `guard(d, e): effect`, for every two register index bytes (R16). -/
def PairRule (c : Byte → Byte → Instr) (opcode : List Byte) (effect : Fin 8 → Fin 8 → State → State → Prop) : Prop :=
  ∀ d e : Byte, Advances (c d e) (opcode ++ [d, e]) fun s t =>
    if h : d.toNat < 8 ∧ e.toNat < 8 then effect ⟨d.toNat, h.1⟩ ⟨e.toNat, h.2⟩ s t else Unchanged s t

/-- A jump to `target` when `cond` holds, else to the next instruction; nothing but pc is written (R141). -/
def Jumps (i : Instr) (bytes : List Byte) (cond : State → Bool) (target : State → Word) : Prop :=
  Completes i bytes fun s t => t.pc = (if cond s then target s else after s bytes) ∧ Unchanged s t

/-! ## Block copies -/

/-- lwa after `n` one-byte writes from `a` up. -/
def lastWritten (a : Word) (n : Nat) (before : Option Word) : Option Word :=
  if n = 0 then before else some (a + BitVec.ofNat 32 n - 1#32)

/-- The outputs of one-byte writes from `a` up (R396). -/
def copyOutputs (hooks : List Hook) (a : Word) : List Byte → List Event
  | [] => []
  | b :: bs => storeOutputs hooks a [b] ++ copyOutputs hooks (a + 1#32) bs

/-- The outputs of the iterations of REP MOVSB that store `bytes` (R321, R322). -/
def moveOutputs (hooks : List Hook) (src dst : Word) : List Byte → List Event
  | [] => []
  | b :: bs => readReport src 1 ++ storeOutputs hooks dst [b] ++ moveOutputs hooks (src + 1#32) (dst + 1#32) bs

/-- The outputs of `n` iterations of REP CMPSB (R320, R323). -/
def compareOutputs (src dst : Word) : Nat → List Event
  | 0 => []
  | n + 1 => readReport src 1 ++ readReport dst 1 ++ compareOutputs (src + 1#32) (dst + 1#32) n

/-- Sector `j` of a disk request lies wholly within an attached image (R389, R397; for a sector field of 0, log 23). -/
def sectorReadable (s : State) (q : DiskRequest) (j : Nat) : Prop :=
  ∃ image, s.setup.diskImage = some image ∧
    0 ≤ diskOffset q.cylinder q.head q.sector + 512 * (j : Int) ∧
    diskOffset q.cylinder q.head q.sector + 512 * (j : Int) + 512 ≤ (image.length : Int)

/-- The image's bytes of the first `m` sectors of a disk request (R396). -/
def sectorBytes (s : State) (q : DiskRequest) (m : Nat) : List Byte :=
  (((s.setup.diskImage.getD []).drop (diskOffset q.cylinder q.head q.sector).toNat).take (512 * m))

/-! ## Whole-machine rules -/

/-- The instructions that may write flag bit `k` (R41 to R47). -/
def mayWriteFlag (k : Nat) : Instr → Bool
  | .sysret => true
  | .add _ _ | .addi _ _ | .sub _ _ | .subi _ _ | .inc _ | .dec _ | .neg _ | .and _ _ | .or _ _ | .xor _ _ | .not _
  | .shl _ _ | .shr _ _ | .rol _ _ | .ror _ _ | .mul _ | .imul _ | .div _ | .idiv _ | .bsf _ _ | .bsr _ _
  | .popcnt _ _ => decide (k = 0)
  | .adc _ _ | .sbb _ _ | .cmp _ _ | .cmpi _ _ | .cmpsb | .repCmpsb => decide (k = 0) || decide (k = 1)
  | .int n => decide (n = 0x13#8) && decide (k = 1)
  | .cli | .sti | .cliL => decide (k = 2)
  | .stiL => decide (k = 9)
  | _ => false

/-- The register index byte names register `j` (R114). -/
def names (b : Byte) (j : Fin 8) : Bool := decide (b.toNat = j.val)

/-- The instructions that may write register `j`: those whose encoding names it as a destination, and those of the table of
R33 that write it implicitly. -/
def mayWriteRegister (j : Fin 8) : Instr → Bool
  | .mov d _ | .ldr d _ | .ldzb d _ | .ldsb d _ | .add d _ | .sub d _ | .adc d _ | .sbb d _ | .and d _ | .or d _
  | .xor d _ | .popcnt d _ | .bsf d _ | .bsr d _ => names d j
  | .movi r _ | .lda r _ | .addi r _ | .subi r _ | .inc r | .dec r | .shl r _ | .shr r _ | .rol r _ | .ror r _
  | .not r | .neg r => names r j
  | .pop r => names r j || decide (j = 7)
  | .mov8 r _ | .mov16 r _ => decide (r.toNat = j.val)
  | .pop16 r => decide (r.toNat = j.val) || decide (j = 7)
  | .mul _ | .imul _ | .div _ | .idiv _ | .rdtsc => decide (j = 0) || decide (j = 1)
  | .cpuid => decide (j.val < 4)
  | .loop _ | .loopR8 _ => decide (j = 2)
  | .movsb | .cmpsb => decide (j = 4) || decide (j = 5)
  | .repMovsb | .repCmpsb => decide (j = 2) || decide (j = 4) || decide (j = 5)
  | .push _ | .push16 _ | .call _ | .ret | .callR16 _ | .ret16 | .ret16Imm _ | .syscall | .sysret => decide (j = 7)
  | _ => false

/-- The instructions that may write memory, and so lwa: the stores of R163, R165 and R168, the stack writes, MOVSB and its
repeat form, and the services (R71, R78). -/
def mayStore : Instr → Bool
  | .sta _ _ | .str _ _ | .strb _ _ | .push _ | .push16 _ | .call _ | .callR16 _ | .syscall | .movsb | .repMovsb => true
  | .int n => decide (n = 0x10#8) || decide (n = 0x13#8)
  | _ => false

end Sys2Proof.Machine
end

