-- ==== Sys2Proof/Certificates/Slice0/Obligations.lean ====
section
/-!
DEFINITION. The statements for the provers. `Safety.lean` has the terms they use. The statements of an instruction say its
encoding, that it completes from every state, its result, and its frame: what it leaves alone. Each docstring names the rules
it formalises.
-/

open Sys2Proof Sys2Proof.Machine

/-! ## Encoding -/

/-- Decoding the encoding of a well-formed instruction gives it back, whatever bytes follow (R110 to R129, R138). -/
def Obligations.DecodeEncodeRoundTrip : Prop :=
  ∀ (i : Instr) (rest : List Byte), i.WellFormed → decode (encode i ++ rest) = .instr i

/-- The bytes that decode to an instruction are its encoding and no other, but for the two ignored bits of MOVSEG's byte
(R110 to R129, R136). -/
def Obligations.DecodedBytesAreTheEncoding : Prop :=
  ∀ (w : List Byte) (i : Instr), decode w = .instr i →
    i.WellFormed ∧
    match i with
    | .movseg k r => byteAt w 0 = 0x8E#8 ∧ ∃ ignored : BitVec 2, byteAt w 1 = ignored ++ k ++ r
    | _ => ∀ n, n < i.length → byteAt w n = (encode i).getD n 0#8

/-- The decoder reads at most six bytes, and what it reads has one to six of them (R110, R138). -/
def Obligations.DecoderReadsAtMostSixBytes : Prop :=
  ∀ w : List Byte, decode (w.take 6) = decode w ∧
    match decode w with
    | .instr i => 1 ≤ i.length ∧ i.length ≤ 6
    | .error e => e.bytes = [byteAt w 0] ∨ e.bytes = [byteAt w 0, byteAt w 1]

/-- The unassigned first bytes are those of R132's list, each a decode error of length 1; the unassigned second bytes after 0x0F,
0xF3, 0xF7 and 0x8E are those of R131 and R133 to R135, each a decode error of length 2. -/
def Obligations.UnassignedBytesAreDecodeErrors : Prop :=
  (∀ w : List Byte,
     let b := (byteAt w 0).toNat
     if b = 0x00 ∨ (0x0C ≤ b ∧ b ≤ 0x0E) ∨ (0x1A ≤ b ∧ b ≤ 0x1F) ∨ (0x27 ≤ b ∧ b ≤ 0x2F) ∨ (0x3A ≤ b ∧ b ≤ 0x3B) ∨
         (0x3E ≤ b ∧ b ≤ 0x4F) ∨ (0x60 ≤ b ∧ b ≤ 0x71) ∨ b = 0x76 ∨ (0x79 ≤ b ∧ b ≤ 0x8D) ∨ (0x8F ≤ b ∧ b ≤ 0xA3) ∨
         b = 0xA5 ∨ (0xA7 ≤ b ∧ b ≤ 0xAF) ∨ (0xC0 ≤ b ∧ b ≤ 0xC1) ∨ (0xC4 ≤ b ∧ b ≤ 0xCC) ∨ (0xCE ≤ b ∧ b ≤ 0xE1) ∨
         (0xE3 ≤ b ∧ b ≤ 0xE7) ∨ b = 0xEA ∨ (0xEC ≤ b ∧ b ≤ 0xF2) ∨ (0xF5 ≤ b ∧ b ≤ 0xF6) ∨ (0xF8 ≤ b ∧ b ≤ 0xF9) ∨
         (0xFC ≤ b ∧ b ≤ 0xFF)
     then decode w = .error (.primary (byteAt w 0)) ∧ (DecodeError.primary (byteAt w 0)).bytes.length = 1
     else if b = 0x0F ∨ b = 0xF3 ∨ b = 0xF7 ∨ b = 0x8E then ∀ e, decode w = .error e → e.bytes.length = 2
     else ∃ i, decode w = .instr i) ∧
  ∀ (b : Byte) (w : List Byte),
    (if b ∈ [0x05#8, 0x07#8, 0x0B#8, 0x31#8, 0x87#8, 0xA2#8, 0xB8#8, 0xBC#8, 0xBD#8]
      then ∃ i, decode (0x0F#8 :: b :: w) = .instr i
      else decode (0x0F#8 :: b :: w) = .error (.twoByte b) ∧ (DecodeError.twoByte b).bytes = [0x0F#8, b]) ∧
    (if b = 0xA4#8 ∨ b = 0xA6#8
      then ∃ i, decode (0xF3#8 :: b :: w) = .instr i
      else decode (0xF3#8 :: b :: w) = .error (.repeatPrefix b) ∧ (DecodeError.repeatPrefix b).bytes = [0xF3#8, b]) ∧
    (if 2 ≤ b.toNat ∧ b.toNat ≤ 7
      then ∃ i, decode (0xF7#8 :: b :: w) = .instr i
      else decode (0xF7#8 :: b :: w) = .error (.group b) ∧ (DecodeError.group b).bytes = [0xF7#8, b]) ∧
    (if (b.toNat / 8) % 8 ≤ 5
      then ∃ i, decode (0x8E#8 :: b :: w) = .instr i
      else decode (0x8E#8 :: b :: w) = .error (.segmentLoad b) ∧ (DecodeError.segmentLoad b).bytes = [0x8E#8, b])

/-- Words written out from the encoding tables decode to the instructions they stand for, one of each family (R113, R125 to
R129): the bytes are those of the examples of R161, R211, R249, R291, R323, R351, R173 and of vector V-E8. -/
def Obligations.WrittenOutWordsDecode : Prop :=
  decode [0x02#8, 0x00#8, 0x78#8, 0x56#8, 0x34#8, 0x12#8] = .instr (.movi 0#8 0x12345678#32) ∧
  decode [0xF7#8, 0x06#8, 0x03#8] = .instr (.div 3#8) ∧
  decode [0x0F#8, 0xBD#8, 0x00#8, 0x01#8] = .instr (.bsr 0#8 1#8) ∧
  decode [0x0F#8, 0x87#8, 0xFC#8, 0xFF#8] = .instr (.jaR16 0xFFFC#16) ∧
  decode [0xF3#8, 0xA6#8] = .instr .repCmpsb ∧
  decode [0x8E#8, 0xD8#8] = .instr (.movseg 3#3 0#3) ∧
  decode [0x52#8] = .instr (.push16 2#3) ∧
  decode [0xF7#8, 0x00#8, 0x05#8] = .error (.group 0#8)

/-! ## The step and the run loop -/

/-- A running machine with pc in range and no shutdown at a batch start fetches and runs the decoded instruction: lwa becomes
NONE, the fetch's reports come first, the instruction runs, and the cycle ends (R140, R435). -/
def Obligations.StepRunsDecodedInstruction : Prop :=
  ∀ (s : State) (i : Instr), s.run = .running → ¬(s.bpos = 0 ∧ s.shutdownRequested = true) → inRange s.pc = true →
    s.decodeAtPc = .instr i →
    ∃ t, exec i (State.emit { s with lwa := none } (fetchReports s.pc i.length)) = .next t ∧ step s = .next t.endCycle

/-- In the same state, bytes that are no instruction are reported with pc and the bytes consumed, pc moves past them, and
nothing else changes (R137, R383): `u` is the machine before the end of the cycle. -/
def Obligations.DecodeErrorIsReported : Prop :=
  ∀ (s : State) (e : DecodeError), s.run = .running → ¬(s.bpos = 0 ∧ s.shutdownRequested = true) → inRange s.pc = true →
    s.decodeAtPc = .error e →
    ∃ u, step s = .next u.endCycle ∧ u.pc = s.pc + BitVec.ofNat 32 e.bytes.length ∧
      NoStore { s with lwa := none } u [] [] (fetchReports s.pc e.bytes.length ++ [.diag (.decodeError s.pc e.bytes)])

/-- Every instruction completes from every state, and so does every step: there is no fatal outcome (R143, R380). That a
stopped machine has a step at all is the model's choice (log 7). -/
def Obligations.EveryStepCompletes : Prop :=
  (∀ (i : Instr) (s : State), ∃ t, exec i s = .next t) ∧ ∀ s : State, StepSafe s

/-- One cycle of a running machine: the counter goes up by one, and then either pc is in range and the batch goes on, with a
render and the next batch after its last cycle, or the machine reports the pc, stops, and renders nothing (R48, R140, R435,
R436, R438). -/
def Obligations.CycleEndsByTheRunLoop : Prop :=
  ∀ s : State, s.run = .running → ¬(s.bpos = 0 ∧ s.shutdownRequested = true) → inRange s.pc = true →
    ∃ t new, step s = .next t ∧ t.cycles = s.cycles + 1#64 ∧
      (∀ k, Event.render k ∉ new) ∧ (∀ p, Event.diag (.ipOutOfRange p) ∉ new) ∧
      if inRange t.pc = true then
        t.run = .running ∧
        if s.bpos + 1 < 1000 then t.bpos = s.bpos + 1 ∧ t.batch = s.batch ∧ t.events = s.events ++ new
        else t.bpos = 0 ∧ t.batch = s.batch + 1 ∧ t.events = s.events ++ new ++ [.render s.batch]
      else
        t.run = .stopped ∧ t.bpos = s.bpos ∧ t.batch = s.batch ∧
          t.events = s.events ++ new ++ [.diag (.ipOutOfRange t.pc)]

/-- When the run loop runs no cycle: a stopped machine stays as it is (that its step is a stutter is the model's choice, log 7),
a shutdown request found at a batch start stops the machine with nothing else changed (log 8), and a pc out of range before a
cycle is reported and stops it (R434, R436, R437). -/
def Obligations.RunLoopStops : Prop :=
  ∀ s : State,
    (s.run = .stopped → step s = .next s) ∧
    (s.run = .running → s.bpos = 0 → s.shutdownRequested = true → step s = .next { s with run := .stopped }) ∧
    (s.run = .running → ¬(s.bpos = 0 ∧ s.shutdownRequested = true) → inRange s.pc = false →
      step s = .next { s with run := .stopped, events := s.events ++ [.diag (.ipOutOfRange s.pc)] })

/-- The invariant of a machine between two steps is kept by every step, from every state (R39, R51, R53, R70, R436). -/
def Obligations.StepKeepsInvariant : Prop := ∀ s t : State, Inv s → step s = .next t → Inv t

/-- The invariant holds of the machine after reset. -/
def Obligations.ResetHasInvariant : Prop := Inv State.reset

/-- The values at reset that the spec gives, those it marks as its own decision among them (R36, R40, R49, R52, R430; log 11): pc
and x[7] at the boot address, everything else zero, NONE, Running or empty. -/
def Obligations.ResetValues : Prop :=
  (∀ j : Fin 8, State.reset.reg j = if j = 7 then 0x7C00#32 else 0#32) ∧ State.reset.pc = 0x7C00#32 ∧
  State.reset.flags = 0#32 ∧ (∀ k : Sel, State.reset.seg k = 0#16) ∧ State.reset.lwa = none ∧ State.reset.cycles = 0#64 ∧
  State.reset.curRow = 0 ∧ State.reset.curCol = 0 ∧ State.reset.run = .running ∧ State.reset.bpos = 0 ∧
  State.reset.events = [] ∧ ∀ a : Word, State.reset.readByte a = 0#8

/-- Creation and boot load of a machine with any parameters (R430 to R432): it fails without a whole first block, and else leaves
the first 512 bytes of the image at the boot address, zeros elsewhere, and the boot state, with nothing output. -/
def Obligations.BootLoadLeavesBootState : Prop :=
  ∀ p : Setup,
    match p.diskImage with
    | none => bootLoad p = .fault .bootFailure
    | some image =>
      if image.length < 512 then bootLoad p = .fault .bootFailure
      else ∃ s, bootLoad p = .next s ∧ s.setup = p ∧ s.pc = 0x7C00#32 ∧
        (∀ j : Fin 8, s.reg j = if j = 7 then 0x7C00#32 else 0#32) ∧ (∀ k : Sel, s.seg k = 0#16) ∧ s.flags = 0#32 ∧
        s.lwa = none ∧ s.cycles = 0#64 ∧ s.curRow = 0 ∧ s.curCol = 0 ∧ s.run = .running ∧ s.bpos = 0 ∧ s.events = [] ∧
        Memory.wf s.mem = true ∧
        ∀ a : Word, s.readByte a =
          if 0x7C00 ≤ a.toNat ∧ a.toNat < 0x7E00 then image.getD (a.toNat - 0x7C00) 0#8 else 0#8

/-! ## Whole-machine rules -/

/-- No instruction writes the cycle counter, the run-control state, the parameters or the host's request (R30, R48, R57, R434). -/
def Obligations.InstructionsLeaveRunControl : Prop :=
  ∀ (i : Instr) (s t : State), exec i s = .next t →
    t.cycles = s.cycles ∧ t.run = s.run ∧ t.bpos = s.bpos ∧ t.batch = s.batch ∧ t.setup = s.setup ∧
      t.shutdownAt = s.shutdownAt

/-- The outputs are appended to and never read: two machines that differ only in what they have output before go through the same
step, and each appends the same events (R56, R381). -/
def Obligations.OutputsAreNeverRead : Prop :=
  ∀ s : State, ∃ t new, step s = .next t ∧ t.events = s.events ++ new ∧
    ∀ before : List Event, step { s with events := before } = .next { t with events := before ++ new }

/-- No instruction reads the last-write address: a machine that differs only in it ends in the same state, but for an lwa that
the instruction did not write (R50). -/
def Obligations.LastWriteAddressIsNotRead : Prop :=
  ∀ (i : Instr) (s t : State) (l : Option Word), exec i s = .next t →
    exec i { s with lwa := l } = .next t ∨
      (t.lwa = s.lwa ∧ exec i { s with lwa := l } = .next { t with lwa := l })

/-- A flag bit changes only by the instructions that R42 to R47 list as its writers; the reserved bits and bit 7 only by SYSRET,
and bit 9 is cleared by nothing else. -/
def Obligations.FlagsChangeOnlyByTheirWriters : Prop :=
  ∀ (i : Instr) (s t : State), exec i s = .next t →
    (∀ k, t.flag k ≠ s.flag k → mayWriteFlag k i = true) ∧ (i ≠ .sysret → s.flag 9 = true → t.flag 9 = true)

/-- A register changes only by an instruction that names it as its destination or that R33 lists as writing it implicitly. -/
def Obligations.RegistersChangeOnlyByTheirWriters : Prop :=
  ∀ (i : Instr) (s t : State) (j : Fin 8), exec i s = .next t → t.reg j ≠ s.reg j → mayWriteRegister j i = true

/-- Selectors change only by MOVSEG, the cursor only by the teletype service, and memory and lwa only by the instructions that
store (R49, R51, R71, R78, R82). -/
def Obligations.StorageChangesOnlyByItsWriters : Prop :=
  ∀ (i : Instr) (s t : State), exec i s = .next t →
    ((∀ k r, i ≠ .movseg k r) → t.segs = s.segs) ∧
    (i ≠ .int 0x10#8 → t.curRow = s.curRow ∧ t.curCol = s.curCol) ∧
    (mayStore i = false → t.lwa = s.lwa ∧ ∀ x, t.readByte x = s.readByte x)

/-! ## Memory and the bus -/

/-- A write access of up to six bytes: lwa, the raw stores of the bytes in range, the discarded ones, one report, and the hook
events byte by byte; registers, flags, pc and the rest are untouched (R74, R80 to R82). That the report stands before the hook
events is the model's reading of vector V-M9 (log 5). -/
def Obligations.BusWriteEffect : Prop :=
  ∀ (s : State) (a : Word) (bytes : List Byte), bytes.length ≤ 6 →
    (s.memWrite a bytes).pc = s.pc ∧ OneStore s (s.memWrite a bytes) [] [] a bytes

/-- A read of 1, 2 or 4 bytes is the little-endian number of the bytes, each address taken modulo 2^32 and checked on its own:
a byte out of range counts as 0 (R72, R73, R75). -/
def Obligations.ReadsAreLittleEndianByBytes : Prop :=
  ∀ (s : State) (a : Word),
    (inRange a = false → s.readByte a = 0#8) ∧
    (s.readHalf a).toNat = (s.readByte a).toNat + 2 ^ 8 * (s.readByte (a + 1#32)).toNat ∧
    (s.readWord a).toNat = (s.readByte a).toNat + 2 ^ 8 * (s.readByte (a + 1#32)).toNat +
      2 ^ 16 * (s.readByte (a + 2#32)).toNat + 2 ^ 24 * (s.readByte (a + 3#32)).toNat

/-- Mixed-width access: after a 32-bit write of `v` in range, a byte read at offset `k` gives bits `8k+7..8k`, a 16-bit read the
low half, and a 32-bit read `v` (R76). -/
def Obligations.MixedWidthAccess : Prop :=
  ∀ (s : State) (a v : Word), spanInRange a 4 = true →
    let t := s.memWrite a (bytes32 v)
    (∀ k, k < 4 → (t.readByte (a + BitVec.ofNat 32 k)).toNat = v.toNat / 2 ^ (8 * k) % 2 ^ 8) ∧
    (t.readHalf a).toNat = v.toNat % 2 ^ 16 ∧ t.readWord a = v

/-- Self-modifying code: the bytes a write access leaves at pc are what the next fetch decodes (R94, R441). -/
def Obligations.FetchSeesStores : Prop :=
  ∀ (s : State) (i : Instr), i.WellFormed → spanInRange s.pc i.length = true →
    (s.memWrite s.pc (encode i)).decodeAtPc = .instr i

/-! ## Data movement -/

/-- MOV, MOVI, MOV8, MOV16 (R160, R161, R171, R172). -/
def Obligations.MoveRules : Prop :=
  PairRule .mov [0x01#8] (fun d e s t => Assigns s t d (s.reg e)) ∧
  (∀ v : Word, RegisterRule (.movi · v) [0x02#8] (bytes32 v) fun r s t => Assigns s t r v) ∧
  (∀ (r : BitVec 3) (b : Byte), Advances (.mov8 r b) [0xB0#8 + r.setWidth 8, b] fun s t =>
    Assigns s t (regOfField r) ((s.reg (regOfField r) &&& 0xFFFFFF00#32) ||| b.setWidth 32)) ∧
  ∀ (r : BitVec 3) (h : Half), Advances (.mov16 r h) ((0xB8#8 + r.setWidth 8) :: bytes16 h) fun s t =>
    Assigns s t (regOfField r) ((s.reg (regOfField r) &&& 0xFFFF0000#32) ||| h.setWidth 32)

/-- LDA, LDR, LDZB, LDSB (R162, R164, R166, R167). -/
def Obligations.LoadRules : Prop :=
  (∀ a : Word, RegisterRule (.lda · a) [0x03#8] (bytes32 a) fun r s t =>
    t.reg r = s.readWord a ∧ NoStore s t [r] [] (readReport a 4)) ∧
  PairRule .ldr [0x05#8] (fun d e s t =>
    t.reg d = s.readWord (s.reg e) ∧ NoStore s t [d] [] (readReport (s.reg e) 4)) ∧
  PairRule .ldzb [0x07#8] (fun d e s t =>
    (t.reg d).toNat = (s.readByte (s.reg e)).toNat ∧ NoStore s t [d] [] (readReport (s.reg e) 1)) ∧
  PairRule .ldsb [0x08#8] (fun d e s t =>
    (t.reg d).toInt = (s.readByte (s.reg e)).toInt ∧ NoStore s t [d] [] (readReport (s.reg e) 1))

/-- STA, STR, STRB (R163, R165, R168); the order of a write's outputs is that of log 5. -/
def Obligations.StoreRules : Prop :=
  (∀ a : Word, RegisterRule (.sta · a) [0x04#8] (bytes32 a) fun r s t => OneStore s t [] [] a (bytes32 (s.reg r))) ∧
  PairRule .str [0x06#8] (fun d e s t => OneStore s t [] [] (s.reg d) (bytes32 (s.reg e))) ∧
  PairRule .strb [0x09#8] (fun d e s t => OneStore s t [] [] (s.reg d) [(s.reg e).setWidth 8])

/-- PUSH and PUSH16: x[7] moves down by the cell, and the old value of the register is written there (R169, R173); the order
of a write's outputs is that of log 5. -/
def Obligations.PushRules : Prop :=
  RegisterRule .push [0x0A#8] [] (fun r s t =>
    t.reg 7 = s.reg 7 - 4#32 ∧ OneStore s t [7] [] (s.reg 7 - 4#32) (bytes32 (s.reg r))) ∧
  ∀ r : BitVec 3, Advances (.push16 r) [0x50#8 + r.setWidth 8] fun s t =>
    t.reg 7 = s.reg 7 - 2#32 ∧ OneStore s t [7] [] (s.reg 7 - 2#32) (bytes16 ((s.reg (regOfField r)).setWidth 16))

/-- POP and POP16: the cell is read at x[7], x[7] moves up by the cell, and then the register is written, x[7] itself last
(R170, R174). -/
def Obligations.PopRules : Prop :=
  RegisterRule .pop [0x0B#8] [] (fun r s t =>
    t.reg r = s.readWord (s.reg 7) ∧ (r ≠ 7 → t.reg 7 = s.reg 7 + 4#32) ∧
      NoStore s t [r, 7] [] (readReport (s.reg 7) 4)) ∧
  ∀ r : BitVec 3, Advances (.pop16 r) [0x58#8 + r.setWidth 8] fun s t =>
    let i := regOfField r
    let old := if i = 7 then s.reg 7 + 2#32 else s.reg i
    t.reg i = ((old &&& 0xFFFF0000#32) ||| (s.readHalf (s.reg 7)).setWidth 32) ∧ (i ≠ 7 → t.reg 7 = s.reg 7 + 2#32) ∧
      NoStore s t [i, 7] [] (readReport (s.reg 7) 2)

/-- What is pushed into a cell in range is what the next pop gives, and x[7] comes back (R169, R170, R175). -/
def Obligations.PopGivesWhatWasPushed : Prop :=
  ∀ (s t u : State) (d e : Byte), e.toNat < 8 → d.toNat < 7 → spanInRange (s.reg 7 - 4#32) 4 = true →
    exec (.push e) s = .next t → exec (.pop d) t = .next u →
    ∀ i j : Fin 8, i.val = d.toNat → j.val = e.toNat → u.reg i = s.reg j ∧ u.reg 7 = s.reg 7

/-! ## Arithmetic -/

/-- ADD, ADDI, SUB, SUBI, INC, DEC, NEG: the result modulo 2^32 and ZF, CF kept (R200 to R205, R208). -/
def Obligations.AddSubtractRules : Prop :=
  PairRule .add [0x10#8] (fun d e s t => Results s t d (BitVec.ofNat 32 ((s.reg d).toNat + (s.reg e).toNat))) ∧
  (∀ v : Word, RegisterRule (.addi · v) [0x11#8] (bytes32 v) fun r s t =>
    Results s t r (BitVec.ofNat 32 ((s.reg r).toNat + v.toNat))) ∧
  PairRule .sub [0x12#8] (fun d e s t => Results s t d (BitVec.ofInt 32 ((s.reg d).toNat - (s.reg e).toNat : Int))) ∧
  (∀ v : Word, RegisterRule (.subi · v) [0x13#8] (bytes32 v) fun r s t =>
    Results s t r (BitVec.ofInt 32 ((s.reg r).toNat - v.toNat : Int))) ∧
  RegisterRule .inc [0x14#8] [] (fun r s t => Results s t r (BitVec.ofNat 32 ((s.reg r).toNat + 1))) ∧
  RegisterRule .dec [0x15#8] [] (fun r s t => Results s t r (BitVec.ofInt 32 ((s.reg r).toNat - 1 : Int))) ∧
  RegisterRule .neg [0xF7#8, 0x03#8] [] (fun r s t => Results s t r (BitVec.ofInt 32 (0 - (s.reg r).toNat : Int)))

/-- ADC and SBB: the exact sum or difference with the incoming CF is the register, with CF the carry or borrow out
(R206, R207). -/
def Obligations.CarryRules : Prop :=
  PairRule .adc [0x16#8] (fun d e s t =>
    (t.reg d).toNat + (if t.cf then 2 ^ 32 else 0) = (s.reg d).toNat + (s.reg e).toNat + (if s.cf then 1 else 0) ∧
    t.zf = decide (t.reg d = 0#32) ∧ NoStore s t [d] [zfBit, cfBit] []) ∧
  PairRule .sbb [0x17#8] (fun d e s t =>
    ((t.reg d).toNat : Int) - (if t.cf then 2 ^ 32 else 0) =
      (s.reg d).toNat - (s.reg e).toNat - (if s.cf then 1 else 0) ∧
    t.zf = decide (t.reg d = 0#32) ∧ NoStore s t [d] [zfBit, cfBit] [])

/-- MUL and IMUL: x[1]:x[0] is the exact product, unsigned or signed, and the low halves are the same (R209, R210, R220). -/
def Obligations.MultiplyRules : Prop :=
  RegisterRule .mul [0xF7#8, 0x04#8] [] (fun r s t =>
    (t.reg 1).toNat * 2 ^ 32 + (t.reg 0).toNat = (s.reg 0).toNat * (s.reg r).toNat ∧ t.reg 0 = s.reg 0 * s.reg r ∧
    t.zf = decide (t.reg 0 = 0#32) ∧ NoStore s t [0, 1] [zfBit] []) ∧
  RegisterRule .imul [0xF7#8, 0x05#8] [] (fun r s t =>
    (t.reg 1).toInt * 2 ^ 32 + (t.reg 0).toNat = (s.reg 0).toInt * (s.reg r).toInt ∧ t.reg 0 = s.reg 0 * s.reg r ∧
    t.zf = decide (t.reg 0 = 0#32) ∧ NoStore s t [0, 1] [zfBit] [])

/-- DIV: a zero divisor is reported and changes nothing; else x[0] is the quotient of x[1]:x[0] modulo 2^32 and x[1] the
remainder (R211, R386). -/
def Obligations.UnsignedDivideRule : Prop :=
  RegisterRule .div [0xF7#8, 0x06#8] [] fun r s t =>
    if s.reg r = 0#32 then NoStore s t [] [] [.diag (.divZero s.pc)]
    else ∃ q m : Nat,
      (s.reg 1).toNat * 2 ^ 32 + (s.reg 0).toNat = q * (s.reg r).toNat + m ∧ m < (s.reg r).toNat ∧
      t.reg 0 = BitVec.ofNat 32 q ∧ (t.reg 1).toNat = m ∧
      t.zf = decide (t.reg 0 = 0#32) ∧ NoStore s t [0, 1] [zfBit] []

/-- IDIV: as DIV on signed numbers, with the quotient rounded toward zero, so that the remainder has the dividend's sign
(R212, R386). -/
def Obligations.SignedDivideRule : Prop :=
  RegisterRule .idiv [0xF7#8, 0x07#8] [] fun r s t =>
    let n : Int := (s.reg 1).toInt * 2 ^ 32 + (s.reg 0).toNat
    if s.reg r = 0#32 then NoStore s t [] [] [.diag (.divZero s.pc)]
    else ∃ q m : Int,
      n = q * (s.reg r).toInt + m ∧ |m| < |(s.reg r).toInt| ∧ (0 ≤ n → 0 ≤ m) ∧ (n ≤ 0 → m ≤ 0) ∧
      t.reg 0 = BitVec.ofInt 32 q ∧ (t.reg 1).toInt = m ∧
      t.zf = decide (t.reg 0 = 0#32) ∧ NoStore s t [0, 1] [zfBit] []

/-! ## Bitwise operations -/

/-- AND, OR, XOR, NOT, bit by bit, with ZF from the result and CF kept (R240 to R243). -/
def Obligations.LogicRules : Prop :=
  PairRule .and [0x20#8] (fun d e s t => ∃ v, Results s t d v ∧
    ∀ k, v.getLsbD k = ((s.reg d).getLsbD k && (s.reg e).getLsbD k)) ∧
  PairRule .or [0x21#8] (fun d e s t => ∃ v, Results s t d v ∧
    ∀ k, v.getLsbD k = ((s.reg d).getLsbD k || (s.reg e).getLsbD k)) ∧
  PairRule .xor [0x22#8] (fun d e s t => ∃ v, Results s t d v ∧
    ∀ k, v.getLsbD k = ((s.reg d).getLsbD k ^^ (s.reg e).getLsbD k)) ∧
  RegisterRule .not [0xF7#8, 0x02#8] [] (fun r s t => ∃ v, Results s t r v ∧
    ∀ k, k < 32 → v.getLsbD k = !(s.reg r).getLsbD k)

/-- SHL and SHR by an unsigned count of 0 to 255, bit by bit: zeros come in, and a count of 32 or more gives 0
(R244, R245). -/
def Obligations.ShiftRules : Prop :=
  (∀ c : Byte, RegisterRule (.shl · c) [0x23#8] [c] fun r s t => ∃ v, Results s t r v ∧
    ∀ k, k < 32 → v.getLsbD k = (decide (c.toNat ≤ k) && (s.reg r).getLsbD (k - c.toNat))) ∧
  ∀ c : Byte, RegisterRule (.shr · c) [0x24#8] [c] fun r s t => ∃ v, Results s t r v ∧
    ∀ k, k < 32 → v.getLsbD k = (decide (k + c.toNat < 32) && (s.reg r).getLsbD (k + c.toNat))

/-- ROL and ROR by the count modulo 32, bit by bit (R246, R247). -/
def Obligations.RotateRules : Prop :=
  (∀ c : Byte, RegisterRule (.rol · c) [0x25#8] [c] fun r s t => ∃ v, Results s t r v ∧
    ∀ k, k < 32 → v.getLsbD ((k + c.toNat) % 32) = (s.reg r).getLsbD k) ∧
  ∀ c : Byte, RegisterRule (.ror · c) [0x26#8] [c] fun r s t => ∃ v, Results s t r v ∧
    ∀ k, k < 32 → v.getLsbD k = (s.reg r).getLsbD ((k + c.toNat) % 32)

/-- BSF, BSR and POPCNT: the lowest and the highest 1 bit, a zero source setting ZF and writing no register, and the number of
1 bits (R248 to R250). -/
def Obligations.BitScanAndCountRules : Prop :=
  PairRule .bsf [0x0F#8, 0xBC#8] (fun d e s t =>
    if s.reg e = 0#32 then t.zf = true ∧ NoStore s t [] [zfBit] []
    else t.zf = false ∧ NoStore s t [d] [zfBit] [] ∧ (s.reg e).getLsbD (t.reg d).toNat = true ∧
      ∀ k, (s.reg e).getLsbD k = true → (t.reg d).toNat ≤ k) ∧
  PairRule .bsr [0x0F#8, 0xBD#8] (fun d e s t =>
    if s.reg e = 0#32 then t.zf = true ∧ NoStore s t [] [zfBit] []
    else t.zf = false ∧ NoStore s t [d] [zfBit] [] ∧ (s.reg e).getLsbD (t.reg d).toNat = true ∧
      ∀ k, (s.reg e).getLsbD k = true → k ≤ (t.reg d).toNat) ∧
  PairRule .popcnt [0x0F#8, 0xB8#8] (fun d e s t =>
    (t.reg d).toNat = ((Finset.range 32).filter fun k => (s.reg e).getLsbD k = true).card ∧
    t.zf = decide (s.reg e = 0#32) ∧ NoStore s t [d] [zfBit] [])

/-! ## Comparison and control flow -/

/-- CMP and CMPI: ZF says equal, CF below, unsigned; no register changes (R270, R271). -/
def Obligations.CompareRules : Prop :=
  PairRule .cmp [0x18#8] (fun d e s t =>
    t.zf = decide (s.reg d = s.reg e) ∧ t.cf = decide ((s.reg d).toNat < (s.reg e).toNat) ∧
      NoStore s t [] [zfBit, cfBit] []) ∧
  ∀ v : Word, RegisterRule (.cmpi · v) [0x19#8] (bytes32 v) fun r s t =>
    t.zf = decide (s.reg r = v) ∧ t.cf = decide ((s.reg r).toNat < v.toNat) ∧ NoStore s t [] [zfBit, cfBit] []

/-- JMP, JZ, JNZ, JC, JNC, JA, JB to an absolute address (R272 to R279). -/
def Obligations.AbsoluteJumpRules : Prop :=
  ∀ a : Word,
    Jumps (.jmp a) (0x30#8 :: bytes32 a) (fun _ => true) (fun _ => a) ∧
    Jumps (.jz a) (0x31#8 :: bytes32 a) (fun s => s.flag 0) (fun _ => a) ∧
    Jumps (.jnz a) (0x32#8 :: bytes32 a) (fun s => !s.flag 0) (fun _ => a) ∧
    Jumps (.jc a) (0x33#8 :: bytes32 a) (fun s => s.flag 1) (fun _ => a) ∧
    Jumps (.jnc a) (0x34#8 :: bytes32 a) (fun s => !s.flag 1) (fun _ => a) ∧
    Jumps (.ja a) (0x35#8 :: bytes32 a) (fun s => !s.flag 1 && !s.flag 0) (fun _ => a) ∧
    Jumps (.jb a) (0x36#8 :: bytes32 a) (fun s => s.flag 1) (fun _ => a)

/-- The relative jumps: the displacement is sign-extended and counts from the end of the instruction (R118, R283 to R291). JS.r8
reads bit 7 as the spec says, which calls it no contract (log 17). -/
def Obligations.RelativeJumpRules : Prop :=
  (∀ b : Byte,
    let target : State → Word := fun s => BitVec.ofInt 32 ((s.pc.toNat : Int) + 2 + b.toInt)
    Jumps (.jmpR8 b) [0xEB#8, b] (fun _ => true) target ∧
    Jumps (.jcR8 b) [0x72#8, b] (fun s => s.flag 1) target ∧
    Jumps (.jncR8 b) [0x73#8, b] (fun s => !s.flag 1) target ∧
    Jumps (.jzR8 b) [0x74#8, b] (fun s => s.flag 0) target ∧
    Jumps (.jnzR8 b) [0x75#8, b] (fun s => !s.flag 0) target ∧
    Jumps (.jaR8 b) [0x77#8, b] (fun s => !s.flag 1 && !s.flag 0) target ∧
    Jumps (.jsR8 b) [0x78#8, b] (fun s => s.flag 7) target) ∧
  ∀ h : Half,
    Jumps (.jmpR16 h) (0xE9#8 :: bytes16 h) (fun _ => true)
      (fun s => BitVec.ofInt 32 ((s.pc.toNat : Int) + 3 + h.toInt)) ∧
    Jumps (.jaR16 h) (0x0F#8 :: 0x87#8 :: bytes16 h) (fun s => !s.flag 1 && !s.flag 0)
      (fun s => BitVec.ofInt 32 ((s.pc.toNat : Int) + 4 + h.toInt))

/-- What the conditions mean after a CMP of two registers: Z equal, C and B below, NC not below, A above, unsigned (R270, R272). -/
def Obligations.ConditionsAfterCompare : Prop :=
  ∀ (s t : State) (d e : Byte) (i j : Fin 8), i.val = d.toNat → j.val = e.toNat → exec (.cmp d e) s = .next t →
    (t.holds .z = true ↔ s.reg i = s.reg j) ∧ (t.holds .nz = true ↔ s.reg i ≠ s.reg j) ∧
    (t.holds .c = true ↔ (s.reg i).toNat < (s.reg j).toNat) ∧ (t.holds .b = true ↔ (s.reg i).toNat < (s.reg j).toNat) ∧
    (t.holds .nc = true ↔ (s.reg j).toNat ≤ (s.reg i).toNat) ∧ (t.holds .a = true ↔ (s.reg j).toNat < (s.reg i).toNat)

/-- CALL and CALL.r16: the return address, whole or its low half, is pushed, and pc goes to the target (R280, R292);
the order of a write's outputs is that of log 5. -/
def Obligations.CallRules : Prop :=
  (∀ a : Word, Completes (.call a) (0x37#8 :: bytes32 a) fun s t =>
    t.pc = a ∧ t.reg 7 = s.reg 7 - 4#32 ∧ OneStore s t [7] [] (s.reg 7 - 4#32) (bytes32 (s.pc + 5#32))) ∧
  ∀ h : Half, Completes (.callR16 h) (0xE8#8 :: bytes16 h) fun s t =>
    t.pc = BitVec.ofInt 32 ((s.pc.toNat : Int) + 3 + h.toInt) ∧ t.reg 7 = s.reg 7 - 2#32 ∧
      OneStore s t [7] [] (s.reg 7 - 2#32) (bytes16 ((s.pc + 3#32).setWidth 16))

/-- RET, RET16 and RET16 imm: pc is the popped cell, zero-extended if it is a word, and x[7] moves up by the cell and by the
unsigned adjustment (R281, R293, R294). -/
def Obligations.ReturnRules : Prop :=
  Completes .ret [0x38#8] (fun s t =>
    t.pc = s.readWord (s.reg 7) ∧ t.reg 7 = s.reg 7 + 4#32 ∧ NoStore s t [7] [] (readReport (s.reg 7) 4)) ∧
  Completes .ret16 [0xC3#8] (fun s t =>
    t.pc.toNat = (s.readHalf (s.reg 7)).toNat ∧ t.reg 7 = s.reg 7 + 2#32 ∧
      NoStore s t [7] [] (readReport (s.reg 7) 2)) ∧
  ∀ h : Half, Completes (.ret16Imm h) (0xC2#8 :: bytes16 h) fun s t =>
    t.pc.toNat = (s.readHalf (s.reg 7)).toNat ∧ t.reg 7 = s.reg 7 + BitVec.ofNat 32 (2 + h.toNat) ∧
      NoStore s t [7] [] (readReport (s.reg 7) 2)

/-- CALL then RET with the cell in range: pc is back at the instruction after the CALL, and x[7] at its value before it
(R281). -/
def Obligations.CallThenReturn : Prop :=
  ∀ (s t u : State) (a : Word), spanInRange (s.reg 7 - 4#32) 4 = true →
    exec (.call a) s = .next t → exec .ret t = .next u → u.pc = s.pc + 5#32 ∧ ∀ j, u.reg j = s.reg j

/-- LOOP and LOOP.r8: x[2] counts down modulo 2^32, and the jump is taken unless it became 0; no flag is written
(R282, R295). -/
def Obligations.LoopRules : Prop :=
  (∀ a : Word, Completes (.loop a) (0x39#8 :: bytes32 a) fun s t =>
    t.reg 2 = s.reg 2 - 1#32 ∧ t.pc = (if s.reg 2 = 1#32 then s.pc + 5#32 else a) ∧ NoStore s t [2] [] []) ∧
  ∀ b : Byte, Completes (.loopR8 b) [0xE2#8, b] fun s t =>
    t.reg 2 = s.reg 2 - 1#32 ∧
    t.pc = (if s.reg 2 = 1#32 then s.pc + 2#32 else BitVec.ofInt 32 ((s.pc.toNat : Int) + 2 + b.toInt)) ∧
    NoStore s t [2] [] []

/-! ## String operations -/

/-- CMPSB and MOVSB: one byte compared or copied, both cursors up by one (R320, R321); the order of a write's outputs is that
of log 5. -/
def Obligations.ByteStringRules : Prop :=
  Advances .cmpsb [0xA6#8] (fun s t =>
    t.zf = decide (s.readByte (s.reg 4) = s.readByte (s.reg 5)) ∧
    t.cf = decide ((s.readByte (s.reg 4)).toNat < (s.readByte (s.reg 5)).toNat) ∧
    t.reg 4 = s.reg 4 + 1#32 ∧ t.reg 5 = s.reg 5 + 1#32 ∧
    NoStore s t [4, 5] [zfBit, cfBit] (readReport (s.reg 4) 1 ++ readReport (s.reg 5) 1)) ∧
  Advances .movsb [0xA4#8] (fun s t =>
    t.reg 4 = s.reg 4 + 1#32 ∧ t.reg 5 = s.reg 5 + 1#32 ∧
    Stores s t [4, 5] [] (s.reg 5) [s.readByte (s.reg 4)] (some (s.reg 5))
      (readReport (s.reg 4) 1 ++ storeOutputs s.setup.hooks (s.reg 5) [s.readByte (s.reg 4)]))

/-- REP MOVSB: x[2] bytes are copied forward, one by one, so that a source byte the copy has already overwritten is read as
overwritten; x[2] ends at 0, both cursors move by the count, and lwa is the last address written (R322, R324);
the order of a write's outputs is that of log 5. -/
def Obligations.RepeatMoveRule : Prop :=
  Advances .repMovsb [0xF3#8, 0xA4#8] fun s t =>
    let n := (s.reg 2).toNat
    let src := s.reg 4
    let dst := s.reg 5
    t.reg 2 = 0#32 ∧ t.reg 4 = src + s.reg 2 ∧ t.reg 5 = dst + s.reg 2 ∧
    ∃ bytes : List Byte, bytes.length = n ∧
      (∀ k, k < n →
        let a := src + BitVec.ofNat 32 k
        bytes.getD k 0#8 =
          if inRange a = true ∧ inAccess dst k a = true then bytes.getD (a - dst).toNat 0#8 else s.readByte a) ∧
      Stores s t [2, 4, 5] [] dst bytes (lastWritten dst n s.lwa) (moveOutputs s.setup.hooks src dst bytes)

/-- REP CMPSB: with a count of 0 nothing is compared; else the comparison goes on to the first mismatch or the end of the count,
and the flags are those of the last pair compared (R323). -/
def Obligations.RepeatCompareRule : Prop :=
  Advances .repCmpsb [0xF3#8, 0xA6#8] fun s t =>
    let n := (s.reg 2).toNat
    let left : Nat → Byte := fun k => s.readByte (s.reg 4 + BitVec.ofNat 32 k)
    let right : Nat → Byte := fun k => s.readByte (s.reg 5 + BitVec.ofNat 32 k)
    if n = 0 then Unchanged s t
    else ∃ k, k < n ∧ (∀ j, j < k → left j = right j) ∧ (k + 1 < n → left k ≠ right k) ∧
      t.reg 2 = BitVec.ofNat 32 (n - (k + 1)) ∧ t.reg 4 = s.reg 4 + BitVec.ofNat 32 (k + 1) ∧
      t.reg 5 = s.reg 5 + BitVec.ofNat 32 (k + 1) ∧
      t.zf = decide (left k = right k) ∧ t.cf = decide ((left k).toNat < (right k).toNat) ∧
      NoStore s t [2, 4, 5] [zfBit, cfBit] (compareOutputs (s.reg 4) (s.reg 5) (k + 1))

/-! ## System instructions and services -/

/-- INT: 0x10 is the teletype service, which writes the character and the attribute at the cursor's cell and moves the cursor,
wrapping at the last column and clamping at the last row; 0x13 is the disk service, which leaves all registers and all flags but
CF; any other number does nothing (R340, R393 to R395). The cell's address is a 32-bit sum (log 16), and the order of a write's
outputs is that of log 5. -/
def Obligations.SoftwareInterruptRule : Prop :=
  ∀ n : Byte, Advances (.int n) [0xCD#8, n] fun s t =>
    if n = 0x10#8 then
      let cell := s.setup.textBase + BitVec.ofNat 32 ((s.curRow * s.setup.textCols + s.curCol) * 2)
      let ch : Byte := (s.reg 0).setWidth 8
      t.regs = s.regs ∧ t.flags = s.flags ∧ t.segs = s.segs ∧ t.cycles = s.cycles ∧ t.run = s.run ∧ t.bpos = s.bpos ∧
      t.batch = s.batch ∧ t.setup = s.setup ∧ t.shutdownAt = s.shutdownAt ∧ t.lwa = some (cell + 1#32) ∧
      (∀ x, t.readByte x =
        if inRange x = true ∧ x = cell then ch
        else if inRange x = true ∧ x = cell + 1#32 then 0x07#8 else s.readByte x) ∧
      t.events = s.events ++
        (storeOutputs s.setup.hooks cell [ch] ++ storeOutputs s.setup.hooks (cell + 1#32) [0x07#8]) ∧
      (if s.curCol + 1 = s.setup.textCols then
        t.curCol = 0 ∧ t.curRow = if (s.curRow : Int) < s.setup.textRows - 1 then s.curRow + 1 else s.curRow
      else t.curCol = s.curCol + 1 ∧ t.curRow = s.curRow)
    else if n = 0x13#8 then KeepsRest s t [] [cfBit]
    else Unchanged s t

/-- What a disk read is asked for: the count, CHS address and destination by the bit fields of the registers, and the linear
offset of the address (R396); the destination is a 32-bit sum (log 16). That a sector field of 0 has this offset on every track
is the model's choice where R396 disagrees with itself (log 23). -/
def Obligations.DiskRequestFields : Prop :=
  ∀ s : State,
    let q := s.diskRequest
    q.count = (s.reg 0).toNat % 256 ∧ q.sector = (s.reg 2).toNat % 64 ∧
    q.cylinder = (s.reg 2).toNat / 256 % 256 + 256 * ((s.reg 2).toNat / 64 % 4) ∧
    q.head = (s.reg 1).toNat / 256 % 256 ∧ q.dest.toNat = (s.seg .es).toNat * 16 + (s.reg 3).toNat % 65536 ∧
    diskOffset q.cylinder q.head q.sector = (((q.cylinder : Int) * 2 + q.head) * 18 + (q.sector - 1)) * 512

/-- A disk read whose sectors are all within the image copies them to consecutive addresses from the destination, byte by byte
through the bus, and clears CF; nothing else changes (R396). The addresses are 32-bit sums (log 16), the order of a write's
outputs is that of log 5, and a sector field of 0 after the first track is read by the offset, as log 23 chooses. -/
def Obligations.DiskReadCopiesSectors : Prop :=
  ∀ s : State,
    let q := s.diskRequest
    (∀ j, j < q.count → sectorReadable s q j) →
    ∃ t, exec (.int 0x13#8) s = .next t ∧ t.pc = s.pc + 2#32 ∧ t.cf = false ∧
      Stores s t [] [cfBit] q.dest (sectorBytes s q q.count) (lastWritten q.dest (512 * q.count) s.lwa)
        (copyOutputs s.setup.hooks q.dest (sectorBytes s q q.count))

/-- A disk read whose sector `m` is the first that cannot be read copies the sectors before it, reports the starting CHS address
and the failing offset, sets CF, and stops (R389, R397). The addresses are 32-bit sums (log 16), the order of a write's
outputs is that of log 5, and a sector field of 0 fails by its offset alone, as log 23 chooses. -/
def Obligations.DiskReadFailsAtFirstBadSector : Prop :=
  ∀ (s : State) (m : Nat),
    let q := s.diskRequest
    m < q.count → (∀ j, j < m → sectorReadable s q j) → ¬sectorReadable s q m →
    ∃ t, exec (.int 0x13#8) s = .next t ∧ t.pc = s.pc + 2#32 ∧ t.cf = true ∧
      Stores s t [] [cfBit] q.dest (sectorBytes s q m) (lastWritten q.dest (512 * m) s.lwa)
        (copyOutputs s.setup.hooks q.dest (sectorBytes s q m) ++
          [.diag (.diskIo s.pc q.cylinder q.head q.sector
            (diskOffset q.cylinder q.head q.sector + 512 * (m : Int)))])

/-- HLT and UD2 report their pc and do nothing else; CLI and CLI.L clear bit 2, STI sets bit 2 and STI.L sets bit 9, and every
other bit is kept (R341 to R345, R350, R387, R388). The spec calls bit 9 no contract (log 17). -/
def Obligations.ReportAndInterruptFlagRules : Prop :=
  Advances .hlt [0xF4#8] (fun s t => NoStore s t [] [] [.diag (.halt s.pc)]) ∧
  Advances .ud2 [0x0F#8, 0x0B#8] (fun s t => NoStore s t [] [] [.diag (.ud s.pc)]) ∧
  Advances .cli [0x3C#8] (fun s t => t.flag 2 = false ∧ NoStore s t [] [2] []) ∧
  Advances .sti [0x3D#8] (fun s t => t.flag 2 = true ∧ NoStore s t [] [2] []) ∧
  Advances .cliL [0xFA#8] (fun s t => t.flag 2 = false ∧ NoStore s t [] [2] []) ∧
  Advances .stiL [0xFB#8] (fun s t => t.flag 9 = true ∧ NoStore s t [] [9] [])

/-- SYSCALL pushes the flags word, then the address of the next instruction, and goes to the fixed handler; no flag changes
(R346, R398). The handler's address is a free value at reset (log 2), and the order of a write's outputs is that of log 5. -/
def Obligations.SyscallRule : Prop :=
  Completes .syscall [0x0F#8, 0x05#8] fun s t =>
    t.pc = s.setup.syscallHandler ∧ t.reg 7 = s.reg 7 - 8#32 ∧
    Stores s t [7] [] (s.reg 7 - 8#32) (bytes32 (s.pc + 2#32) ++ bytes32 s.flags) (some (s.reg 7 - 8#32))
      (storeOutputs s.setup.hooks (s.reg 7 - 4#32) (bytes32 s.flags) ++
        storeOutputs s.setup.hooks (s.reg 7 - 8#32) (bytes32 (s.pc + 2#32)))

/-- SYSRET pops the return address, then the whole flags word (R347, R399). -/
def Obligations.SysretRule : Prop :=
  Completes .sysret [0x0F#8, 0x07#8] fun s t =>
    t.pc = s.readWord (s.reg 7) ∧ t.flags = s.readWord (s.reg 7 + 4#32) ∧ t.reg 7 = s.reg 7 + 8#32 ∧
    NoStore s t [7] (List.range 32) (readReport (s.reg 7) 4 ++ readReport (s.reg 7 + 4#32) 4)

/-- SYSCALL then SYSRET with both cells in range: pc is at the instruction after the SYSCALL, and flags and registers are what they
were (R346, R347). -/
def Obligations.SyscallThenSysret : Prop :=
  ∀ s t u : State, spanInRange (s.reg 7 - 8#32) 8 = true → exec .syscall s = .next t → exec .sysret t = .next u →
    u.pc = s.pc + 2#32 ∧ u.flags = s.flags ∧ ∀ j, u.reg j = s.reg j

/-- CPUID gives the four words of the request in x[0]; RDTSC gives the cycle counter, high half in x[1], low half in x[0]
(R348, R349). The words of a request that the setup does not list are free values (log 3). -/
def Obligations.IdentificationAndCounterRules : Prop :=
  Advances .cpuid [0x0F#8, 0xA2#8] (fun s t =>
    let w := cpuidWordsOf s.setup (s.reg 0)
    t.reg 0 = w.w0 ∧ t.reg 1 = w.w1 ∧ t.reg 2 = w.w2 ∧ t.reg 3 = w.w3 ∧ NoStore s t [0, 1, 2, 3] [] []) ∧
  Advances .rdtsc [0x0F#8, 0x31#8] (fun s t =>
    (t.reg 1).toNat * 2 ^ 32 + (t.reg 0).toNat = s.cycles.toNat ∧ NoStore s t [0, 1] [] [])

/-- MOVSEG: each field of 0 to 5 names one selector, which takes the low half of the source register; the other selectors and
everything else are kept (R49, R351). That the encoding has 00 in the two bits the spec ignores is the model's choice (log 14). -/
def Obligations.SegmentLoadRule : Prop :=
  ∀ (k : Fin 6) (r : BitVec 3),
    let field : BitVec 3 := BitVec.ofNat 3 k.val
    let sel : Sel := [Sel.es, .cs, .ss, .ds, .fs, .gs].getD k.val .es
    Advances (.movseg field r) [0x8E#8, 0b00#2 ++ field ++ r] fun s t =>
      t.seg sel = (s.reg (regOfField r)).setWidth 16 ∧ (∀ q, q ≠ sel → t.seg q = s.seg q) ∧
      NoStore s { t with segs := s.segs } [] [] []
end

