-- ==== Sys2Proof/Laws/State.lean ====
section
/-!
SUPPORT. One lemma for each field of State under each plain update, all true by rfl and simp lemmas, so that no later proof
unfolds a record update.
-/

namespace Sys2Proof.Machine

variable (s : State)

/-! ## setReg -/

@[simp] theorem State.setReg_regs (i : Fin 8) (v : Word) : (s.setReg i v).regs = s.regs.set i v := rfl
@[simp] theorem State.setReg_pc (i : Fin 8) (v : Word) : (s.setReg i v).pc = s.pc := rfl
@[simp] theorem State.setReg_flags (i : Fin 8) (v : Word) : (s.setReg i v).flags = s.flags := rfl
@[simp] theorem State.setReg_segs (i : Fin 8) (v : Word) : (s.setReg i v).segs = s.segs := rfl
@[simp] theorem State.setReg_lwa (i : Fin 8) (v : Word) : (s.setReg i v).lwa = s.lwa := rfl
@[simp] theorem State.setReg_cycles (i : Fin 8) (v : Word) : (s.setReg i v).cycles = s.cycles := rfl
@[simp] theorem State.setReg_curRow (i : Fin 8) (v : Word) : (s.setReg i v).curRow = s.curRow := rfl
@[simp] theorem State.setReg_curCol (i : Fin 8) (v : Word) : (s.setReg i v).curCol = s.curCol := rfl
@[simp] theorem State.setReg_run (i : Fin 8) (v : Word) : (s.setReg i v).run = s.run := rfl
@[simp] theorem State.setReg_bpos (i : Fin 8) (v : Word) : (s.setReg i v).bpos = s.bpos := rfl
@[simp] theorem State.setReg_batch (i : Fin 8) (v : Word) : (s.setReg i v).batch = s.batch := rfl
@[simp] theorem State.setReg_mem (i : Fin 8) (v : Word) : (s.setReg i v).mem = s.mem := rfl
@[simp] theorem State.setReg_setup (i : Fin 8) (v : Word) : (s.setReg i v).setup = s.setup := rfl
@[simp] theorem State.setReg_shutdownAt (i : Fin 8) (v : Word) : (s.setReg i v).shutdownAt = s.shutdownAt := rfl
@[simp] theorem State.setReg_events (i : Fin 8) (v : Word) : (s.setReg i v).events = s.events := rfl

/-! ## setPc -/

@[simp] theorem State.setPc_regs (v : Word) : (s.setPc v).regs = s.regs := rfl
@[simp] theorem State.setPc_pc (v : Word) : (s.setPc v).pc = v := rfl
@[simp] theorem State.setPc_flags (v : Word) : (s.setPc v).flags = s.flags := rfl
@[simp] theorem State.setPc_segs (v : Word) : (s.setPc v).segs = s.segs := rfl
@[simp] theorem State.setPc_lwa (v : Word) : (s.setPc v).lwa = s.lwa := rfl
@[simp] theorem State.setPc_cycles (v : Word) : (s.setPc v).cycles = s.cycles := rfl
@[simp] theorem State.setPc_curRow (v : Word) : (s.setPc v).curRow = s.curRow := rfl
@[simp] theorem State.setPc_curCol (v : Word) : (s.setPc v).curCol = s.curCol := rfl
@[simp] theorem State.setPc_run (v : Word) : (s.setPc v).run = s.run := rfl
@[simp] theorem State.setPc_bpos (v : Word) : (s.setPc v).bpos = s.bpos := rfl
@[simp] theorem State.setPc_batch (v : Word) : (s.setPc v).batch = s.batch := rfl
@[simp] theorem State.setPc_mem (v : Word) : (s.setPc v).mem = s.mem := rfl
@[simp] theorem State.setPc_setup (v : Word) : (s.setPc v).setup = s.setup := rfl
@[simp] theorem State.setPc_shutdownAt (v : Word) : (s.setPc v).shutdownAt = s.shutdownAt := rfl
@[simp] theorem State.setPc_events (v : Word) : (s.setPc v).events = s.events := rfl

/-! ## setFlags -/

@[simp] theorem State.setFlags_regs (w : Word) : (s.setFlags w).regs = s.regs := rfl
@[simp] theorem State.setFlags_pc (w : Word) : (s.setFlags w).pc = s.pc := rfl
@[simp] theorem State.setFlags_flags (w : Word) : (s.setFlags w).flags = w := rfl
@[simp] theorem State.setFlags_segs (w : Word) : (s.setFlags w).segs = s.segs := rfl
@[simp] theorem State.setFlags_lwa (w : Word) : (s.setFlags w).lwa = s.lwa := rfl
@[simp] theorem State.setFlags_cycles (w : Word) : (s.setFlags w).cycles = s.cycles := rfl
@[simp] theorem State.setFlags_curRow (w : Word) : (s.setFlags w).curRow = s.curRow := rfl
@[simp] theorem State.setFlags_curCol (w : Word) : (s.setFlags w).curCol = s.curCol := rfl
@[simp] theorem State.setFlags_run (w : Word) : (s.setFlags w).run = s.run := rfl
@[simp] theorem State.setFlags_bpos (w : Word) : (s.setFlags w).bpos = s.bpos := rfl
@[simp] theorem State.setFlags_batch (w : Word) : (s.setFlags w).batch = s.batch := rfl
@[simp] theorem State.setFlags_mem (w : Word) : (s.setFlags w).mem = s.mem := rfl
@[simp] theorem State.setFlags_setup (w : Word) : (s.setFlags w).setup = s.setup := rfl
@[simp] theorem State.setFlags_shutdownAt (w : Word) : (s.setFlags w).shutdownAt = s.shutdownAt := rfl
@[simp] theorem State.setFlags_events (w : Word) : (s.setFlags w).events = s.events := rfl

/-! ## setFlag -/

@[simp] theorem State.setFlag_regs (k : Nat) (b : Bool) : (s.setFlag k b).regs = s.regs := rfl
@[simp] theorem State.setFlag_pc (k : Nat) (b : Bool) : (s.setFlag k b).pc = s.pc := rfl
@[simp] theorem State.setFlag_flags (k : Nat) (b : Bool) : (s.setFlag k b).flags = putBit s.flags k b := rfl
@[simp] theorem State.setFlag_segs (k : Nat) (b : Bool) : (s.setFlag k b).segs = s.segs := rfl
@[simp] theorem State.setFlag_lwa (k : Nat) (b : Bool) : (s.setFlag k b).lwa = s.lwa := rfl
@[simp] theorem State.setFlag_cycles (k : Nat) (b : Bool) : (s.setFlag k b).cycles = s.cycles := rfl
@[simp] theorem State.setFlag_curRow (k : Nat) (b : Bool) : (s.setFlag k b).curRow = s.curRow := rfl
@[simp] theorem State.setFlag_curCol (k : Nat) (b : Bool) : (s.setFlag k b).curCol = s.curCol := rfl
@[simp] theorem State.setFlag_run (k : Nat) (b : Bool) : (s.setFlag k b).run = s.run := rfl
@[simp] theorem State.setFlag_bpos (k : Nat) (b : Bool) : (s.setFlag k b).bpos = s.bpos := rfl
@[simp] theorem State.setFlag_batch (k : Nat) (b : Bool) : (s.setFlag k b).batch = s.batch := rfl
@[simp] theorem State.setFlag_mem (k : Nat) (b : Bool) : (s.setFlag k b).mem = s.mem := rfl
@[simp] theorem State.setFlag_setup (k : Nat) (b : Bool) : (s.setFlag k b).setup = s.setup := rfl
@[simp] theorem State.setFlag_shutdownAt (k : Nat) (b : Bool) : (s.setFlag k b).shutdownAt = s.shutdownAt := rfl
@[simp] theorem State.setFlag_events (k : Nat) (b : Bool) : (s.setFlag k b).events = s.events := rfl

/-! ## setSeg -/

@[simp] theorem State.setSeg_regs (k : Sel) (v : Half) : (s.setSeg k v).regs = s.regs := rfl
@[simp] theorem State.setSeg_pc (k : Sel) (v : Half) : (s.setSeg k v).pc = s.pc := rfl
@[simp] theorem State.setSeg_flags (k : Sel) (v : Half) : (s.setSeg k v).flags = s.flags := rfl
@[simp] theorem State.setSeg_segs (k : Sel) (v : Half) : (s.setSeg k v).segs = s.segs.set k v := rfl
@[simp] theorem State.setSeg_lwa (k : Sel) (v : Half) : (s.setSeg k v).lwa = s.lwa := rfl
@[simp] theorem State.setSeg_cycles (k : Sel) (v : Half) : (s.setSeg k v).cycles = s.cycles := rfl
@[simp] theorem State.setSeg_curRow (k : Sel) (v : Half) : (s.setSeg k v).curRow = s.curRow := rfl
@[simp] theorem State.setSeg_curCol (k : Sel) (v : Half) : (s.setSeg k v).curCol = s.curCol := rfl
@[simp] theorem State.setSeg_run (k : Sel) (v : Half) : (s.setSeg k v).run = s.run := rfl
@[simp] theorem State.setSeg_bpos (k : Sel) (v : Half) : (s.setSeg k v).bpos = s.bpos := rfl
@[simp] theorem State.setSeg_batch (k : Sel) (v : Half) : (s.setSeg k v).batch = s.batch := rfl
@[simp] theorem State.setSeg_mem (k : Sel) (v : Half) : (s.setSeg k v).mem = s.mem := rfl
@[simp] theorem State.setSeg_setup (k : Sel) (v : Half) : (s.setSeg k v).setup = s.setup := rfl
@[simp] theorem State.setSeg_shutdownAt (k : Sel) (v : Half) : (s.setSeg k v).shutdownAt = s.shutdownAt := rfl
@[simp] theorem State.setSeg_events (k : Sel) (v : Half) : (s.setSeg k v).events = s.events := rfl

/-! ## emit -/

@[simp] theorem State.emit_regs (es : List Event) : (s.emit es).regs = s.regs := rfl
@[simp] theorem State.emit_pc (es : List Event) : (s.emit es).pc = s.pc := rfl
@[simp] theorem State.emit_flags (es : List Event) : (s.emit es).flags = s.flags := rfl
@[simp] theorem State.emit_segs (es : List Event) : (s.emit es).segs = s.segs := rfl
@[simp] theorem State.emit_lwa (es : List Event) : (s.emit es).lwa = s.lwa := rfl
@[simp] theorem State.emit_cycles (es : List Event) : (s.emit es).cycles = s.cycles := rfl
@[simp] theorem State.emit_curRow (es : List Event) : (s.emit es).curRow = s.curRow := rfl
@[simp] theorem State.emit_curCol (es : List Event) : (s.emit es).curCol = s.curCol := rfl
@[simp] theorem State.emit_run (es : List Event) : (s.emit es).run = s.run := rfl
@[simp] theorem State.emit_bpos (es : List Event) : (s.emit es).bpos = s.bpos := rfl
@[simp] theorem State.emit_batch (es : List Event) : (s.emit es).batch = s.batch := rfl
@[simp] theorem State.emit_mem (es : List Event) : (s.emit es).mem = s.mem := rfl
@[simp] theorem State.emit_setup (es : List Event) : (s.emit es).setup = s.setup := rfl
@[simp] theorem State.emit_shutdownAt (es : List Event) : (s.emit es).shutdownAt = s.shutdownAt := rfl
@[simp] theorem State.emit_events (es : List Event) : (s.emit es).events = s.events ++ es := rfl

/-! ## raise -/

@[simp] theorem State.raise_regs (d : Diag) : (s.raise d).regs = s.regs := rfl
@[simp] theorem State.raise_pc (d : Diag) : (s.raise d).pc = s.pc := rfl
@[simp] theorem State.raise_flags (d : Diag) : (s.raise d).flags = s.flags := rfl
@[simp] theorem State.raise_segs (d : Diag) : (s.raise d).segs = s.segs := rfl
@[simp] theorem State.raise_lwa (d : Diag) : (s.raise d).lwa = s.lwa := rfl
@[simp] theorem State.raise_cycles (d : Diag) : (s.raise d).cycles = s.cycles := rfl
@[simp] theorem State.raise_curRow (d : Diag) : (s.raise d).curRow = s.curRow := rfl
@[simp] theorem State.raise_curCol (d : Diag) : (s.raise d).curCol = s.curCol := rfl
@[simp] theorem State.raise_run (d : Diag) : (s.raise d).run = s.run := rfl
@[simp] theorem State.raise_bpos (d : Diag) : (s.raise d).bpos = s.bpos := rfl
@[simp] theorem State.raise_batch (d : Diag) : (s.raise d).batch = s.batch := rfl
@[simp] theorem State.raise_mem (d : Diag) : (s.raise d).mem = s.mem := rfl
@[simp] theorem State.raise_setup (d : Diag) : (s.raise d).setup = s.setup := rfl
@[simp] theorem State.raise_shutdownAt (d : Diag) : (s.raise d).shutdownAt = s.shutdownAt := rfl
@[simp] theorem State.raise_events (d : Diag) : (s.raise d).events = s.events ++ [.diag d] := rfl

/-! ## setCursor -/

@[simp] theorem State.setCursor_regs (row col : Nat) : (s.setCursor row col).regs = s.regs := rfl
@[simp] theorem State.setCursor_pc (row col : Nat) : (s.setCursor row col).pc = s.pc := rfl
@[simp] theorem State.setCursor_flags (row col : Nat) : (s.setCursor row col).flags = s.flags := rfl
@[simp] theorem State.setCursor_segs (row col : Nat) : (s.setCursor row col).segs = s.segs := rfl
@[simp] theorem State.setCursor_lwa (row col : Nat) : (s.setCursor row col).lwa = s.lwa := rfl
@[simp] theorem State.setCursor_cycles (row col : Nat) : (s.setCursor row col).cycles = s.cycles := rfl
@[simp] theorem State.setCursor_curRow (row col : Nat) : (s.setCursor row col).curRow = row := rfl
@[simp] theorem State.setCursor_curCol (row col : Nat) : (s.setCursor row col).curCol = col := rfl
@[simp] theorem State.setCursor_run (row col : Nat) : (s.setCursor row col).run = s.run := rfl
@[simp] theorem State.setCursor_bpos (row col : Nat) : (s.setCursor row col).bpos = s.bpos := rfl
@[simp] theorem State.setCursor_batch (row col : Nat) : (s.setCursor row col).batch = s.batch := rfl
@[simp] theorem State.setCursor_mem (row col : Nat) : (s.setCursor row col).mem = s.mem := rfl
@[simp] theorem State.setCursor_setup (row col : Nat) : (s.setCursor row col).setup = s.setup := rfl
@[simp] theorem State.setCursor_shutdownAt (row col : Nat) : (s.setCursor row col).shutdownAt = s.shutdownAt := rfl
@[simp] theorem State.setCursor_events (row col : Nat) : (s.setCursor row col).events = s.events := rfl

/-! ## stop -/

@[simp] theorem State.stop_regs : (s.stop).regs = s.regs := rfl
@[simp] theorem State.stop_pc : (s.stop).pc = s.pc := rfl
@[simp] theorem State.stop_flags : (s.stop).flags = s.flags := rfl
@[simp] theorem State.stop_segs : (s.stop).segs = s.segs := rfl
@[simp] theorem State.stop_lwa : (s.stop).lwa = s.lwa := rfl
@[simp] theorem State.stop_cycles : (s.stop).cycles = s.cycles := rfl
@[simp] theorem State.stop_curRow : (s.stop).curRow = s.curRow := rfl
@[simp] theorem State.stop_curCol : (s.stop).curCol = s.curCol := rfl
@[simp] theorem State.stop_run : (s.stop).run = .stopped := rfl
@[simp] theorem State.stop_bpos : (s.stop).bpos = s.bpos := rfl
@[simp] theorem State.stop_batch : (s.stop).batch = s.batch := rfl
@[simp] theorem State.stop_mem : (s.stop).mem = s.mem := rfl
@[simp] theorem State.stop_setup : (s.stop).setup = s.setup := rfl
@[simp] theorem State.stop_shutdownAt : (s.stop).shutdownAt = s.shutdownAt := rfl
@[simp] theorem State.stop_events : (s.stop).events = s.events := rfl

/-! ## countCycle -/

@[simp] theorem State.countCycle_regs : (s.countCycle).regs = s.regs := rfl
@[simp] theorem State.countCycle_pc : (s.countCycle).pc = s.pc := rfl
@[simp] theorem State.countCycle_flags : (s.countCycle).flags = s.flags := rfl
@[simp] theorem State.countCycle_segs : (s.countCycle).segs = s.segs := rfl
@[simp] theorem State.countCycle_lwa : (s.countCycle).lwa = s.lwa := rfl
@[simp] theorem State.countCycle_cycles : (s.countCycle).cycles = s.cycles + 1#64 := rfl
@[simp] theorem State.countCycle_curRow : (s.countCycle).curRow = s.curRow := rfl
@[simp] theorem State.countCycle_curCol : (s.countCycle).curCol = s.curCol := rfl
@[simp] theorem State.countCycle_run : (s.countCycle).run = s.run := rfl
@[simp] theorem State.countCycle_bpos : (s.countCycle).bpos = s.bpos := rfl
@[simp] theorem State.countCycle_batch : (s.countCycle).batch = s.batch := rfl
@[simp] theorem State.countCycle_mem : (s.countCycle).mem = s.mem := rfl
@[simp] theorem State.countCycle_setup : (s.countCycle).setup = s.setup := rfl
@[simp] theorem State.countCycle_shutdownAt : (s.countCycle).shutdownAt = s.shutdownAt := rfl
@[simp] theorem State.countCycle_events : (s.countCycle).events = s.events := rfl

/-! ## advance -/

@[simp] theorem State.advance_regs (u : State) (len : Word) : (s.advance u len).regs = s.regs := rfl
@[simp] theorem State.advance_pc (u : State) (len : Word) : (s.advance u len).pc = u.pc + len := rfl
@[simp] theorem State.advance_flags (u : State) (len : Word) : (s.advance u len).flags = s.flags := rfl
@[simp] theorem State.advance_segs (u : State) (len : Word) : (s.advance u len).segs = s.segs := rfl
@[simp] theorem State.advance_lwa (u : State) (len : Word) : (s.advance u len).lwa = s.lwa := rfl
@[simp] theorem State.advance_cycles (u : State) (len : Word) : (s.advance u len).cycles = s.cycles := rfl
@[simp] theorem State.advance_curRow (u : State) (len : Word) : (s.advance u len).curRow = s.curRow := rfl
@[simp] theorem State.advance_curCol (u : State) (len : Word) : (s.advance u len).curCol = s.curCol := rfl
@[simp] theorem State.advance_run (u : State) (len : Word) : (s.advance u len).run = s.run := rfl
@[simp] theorem State.advance_bpos (u : State) (len : Word) : (s.advance u len).bpos = s.bpos := rfl
@[simp] theorem State.advance_batch (u : State) (len : Word) : (s.advance u len).batch = s.batch := rfl
@[simp] theorem State.advance_mem (u : State) (len : Word) : (s.advance u len).mem = s.mem := rfl
@[simp] theorem State.advance_setup (u : State) (len : Word) : (s.advance u len).setup = s.setup := rfl
@[simp] theorem State.advance_shutdownAt (u : State) (len : Word) : (s.advance u len).shutdownAt = s.shutdownAt := rfl
@[simp] theorem State.advance_events (u : State) (len : Word) : (s.advance u len).events = s.events := rfl

/-! ## Two writes of one field -/

@[simp] theorem State.setPc_setPc (v w : Word) : (s.setPc v).setPc w = s.setPc w := rfl
@[simp] theorem State.setFlags_setFlags (v w : Word) : (s.setFlags v).setFlags w = s.setFlags w := rfl
@[simp] theorem State.emit_nil : s.emit [] = s := by simp [State.emit]
@[simp] theorem State.emit_emit (es fs : List Event) : (s.emit es).emit fs = s.emit (es ++ fs) := by
  simp [State.emit]

/-! ## What a read sees of an update of another part -/

@[simp] theorem State.setReg_flag (i : Fin 8) (v : Word) (j : Nat) : (s.setReg i v).flag j = s.flag j := rfl
@[simp] theorem State.setReg_seg (i : Fin 8) (v : Word) (j : Sel) : (s.setReg i v).seg j = s.seg j := rfl
@[simp] theorem State.setReg_readByte (i : Fin 8) (v : Word) (j : Word) : (s.setReg i v).readByte j = s.readByte j := rfl
@[simp] theorem State.setPc_reg (v : Word) (j : Fin 8) : (s.setPc v).reg j = s.reg j := rfl
@[simp] theorem State.setPc_flag (v : Word) (j : Nat) : (s.setPc v).flag j = s.flag j := rfl
@[simp] theorem State.setPc_seg (v : Word) (j : Sel) : (s.setPc v).seg j = s.seg j := rfl
@[simp] theorem State.setPc_readByte (v : Word) (j : Word) : (s.setPc v).readByte j = s.readByte j := rfl
@[simp] theorem State.setFlags_reg (w : Word) (j : Fin 8) : (s.setFlags w).reg j = s.reg j := rfl
@[simp] theorem State.setFlags_seg (w : Word) (j : Sel) : (s.setFlags w).seg j = s.seg j := rfl
@[simp] theorem State.setFlags_readByte (w : Word) (j : Word) : (s.setFlags w).readByte j = s.readByte j := rfl
@[simp] theorem State.setFlag_reg (k : Nat) (b : Bool) (j : Fin 8) : (s.setFlag k b).reg j = s.reg j := rfl
@[simp] theorem State.setFlag_seg (k : Nat) (b : Bool) (j : Sel) : (s.setFlag k b).seg j = s.seg j := rfl
@[simp] theorem State.setFlag_readByte (k : Nat) (b : Bool) (j : Word) : (s.setFlag k b).readByte j = s.readByte j := rfl
@[simp] theorem State.setSeg_reg (k : Sel) (v : Half) (j : Fin 8) : (s.setSeg k v).reg j = s.reg j := rfl
@[simp] theorem State.setSeg_flag (k : Sel) (v : Half) (j : Nat) : (s.setSeg k v).flag j = s.flag j := rfl
@[simp] theorem State.setSeg_readByte (k : Sel) (v : Half) (j : Word) : (s.setSeg k v).readByte j = s.readByte j := rfl
@[simp] theorem State.emit_reg (es : List Event) (j : Fin 8) : (s.emit es).reg j = s.reg j := rfl
@[simp] theorem State.emit_flag (es : List Event) (j : Nat) : (s.emit es).flag j = s.flag j := rfl
@[simp] theorem State.emit_seg (es : List Event) (j : Sel) : (s.emit es).seg j = s.seg j := rfl
@[simp] theorem State.emit_readByte (es : List Event) (j : Word) : (s.emit es).readByte j = s.readByte j := rfl
@[simp] theorem State.raise_reg (d : Diag) (j : Fin 8) : (s.raise d).reg j = s.reg j := rfl
@[simp] theorem State.raise_flag (d : Diag) (j : Nat) : (s.raise d).flag j = s.flag j := rfl
@[simp] theorem State.raise_seg (d : Diag) (j : Sel) : (s.raise d).seg j = s.seg j := rfl
@[simp] theorem State.raise_readByte (d : Diag) (j : Word) : (s.raise d).readByte j = s.readByte j := rfl
@[simp] theorem State.setCursor_reg (row col : Nat) (j : Fin 8) : (s.setCursor row col).reg j = s.reg j := rfl
@[simp] theorem State.setCursor_flag (row col : Nat) (j : Nat) : (s.setCursor row col).flag j = s.flag j := rfl
@[simp] theorem State.setCursor_seg (row col : Nat) (j : Sel) : (s.setCursor row col).seg j = s.seg j := rfl
@[simp] theorem State.setCursor_readByte (row col : Nat) (j : Word) : (s.setCursor row col).readByte j = s.readByte j := rfl
@[simp] theorem State.stop_reg (j : Fin 8) : (s.stop).reg j = s.reg j := rfl
@[simp] theorem State.stop_flag (j : Nat) : (s.stop).flag j = s.flag j := rfl
@[simp] theorem State.stop_seg (j : Sel) : (s.stop).seg j = s.seg j := rfl
@[simp] theorem State.stop_readByte (j : Word) : (s.stop).readByte j = s.readByte j := rfl
@[simp] theorem State.countCycle_reg (j : Fin 8) : (s.countCycle).reg j = s.reg j := rfl
@[simp] theorem State.countCycle_flag (j : Nat) : (s.countCycle).flag j = s.flag j := rfl
@[simp] theorem State.countCycle_seg (j : Sel) : (s.countCycle).seg j = s.seg j := rfl
@[simp] theorem State.countCycle_readByte (j : Word) : (s.countCycle).readByte j = s.readByte j := rfl
@[simp] theorem State.advance_reg (u : State) (len : Word) (j : Fin 8) : (s.advance u len).reg j = s.reg j := rfl
@[simp] theorem State.advance_flag (u : State) (len : Word) (j : Nat) : (s.advance u len).flag j = s.flag j := rfl
@[simp] theorem State.advance_seg (u : State) (len : Word) (j : Sel) : (s.advance u len).seg j = s.seg j := rfl
@[simp] theorem State.advance_readByte (u : State) (len : Word) (j : Word) : (s.advance u len).readByte j = s.readByte j := rfl

end Sys2Proof.Machine
end

