-- ==== Sys2Proof/Laws/Memory.lean ====
section
/-!
SUPPORT. The laws of memory as data: a read after a write, on any list at all, and the canonical form, which every memory
operation keeps.
-/

namespace Sys2Proof.Machine

/-! ## Read after write -/

theorem Memory.read_erase (m : Memory) (a x : Nat) :
    Memory.read (Memory.erase m a) x = if x = a then 0#8 else Memory.read m x := by
  induction m with
  | nil => simp [Memory.erase, Memory.read]
  | cons c m ih =>
    obtain ⟨k, v⟩ := c
    simp only [Memory.erase] at ih
    simp only [Memory.erase, List.filter_cons]
    by_cases hk : k = a
    · subst hk
      by_cases hx : x = k
      · subst hx; simpa using ih
      · simp [ih, hx, Memory.read, Ne.symm hx]
    · by_cases hx : k = x
      · subst hx; simp [hk, Memory.read]
      · simp [hk, Memory.read, hx, ih]

theorem Memory.read_put (m : Memory) (a : Nat) (b : Byte) (x : Nat) :
    Memory.read (Memory.put m a b) x = if x = a then b else Memory.read m x := by
  induction m with
  | nil =>
    by_cases hx : x = a
    · simp [Memory.put, Memory.read, hx]
    · simp [Memory.put, Memory.read, hx, Ne.symm hx]
  | cons c m ih =>
    obtain ⟨k, v⟩ := c
    simp only [Memory.put]
    split
    · by_cases hx : x = a
      · simp [Memory.read, hx]
      · simp [Memory.read, hx, Ne.symm hx]
    · split
      · subst_vars
        by_cases hx : x = k
        · simp [Memory.read, hx]
        · simp [Memory.read, hx, Ne.symm hx]
      · by_cases hk : k = x
        · subst hk
          simp [Memory.read, Ne.symm ‹¬a = k›]
        · simp [Memory.read, ih, hk]

/-- A read after a write gives the byte written at its address, and what it gave before at every other. -/
theorem Memory.read_write (m : Memory) (a : Nat) (b : Byte) (x : Nat) :
    Memory.read (Memory.write m a b) x = if x = a then b else Memory.read m x := by
  unfold Memory.write
  split
  · subst_vars; exact Memory.read_erase m a x
  · exact Memory.read_put m a b x

/-! ## The canonical form -/

theorem Memory.above_iff (a : Nat) (m : Memory) : Memory.above a m = true ↔ ∀ c ∈ m, a < c.1 := by
  simp [Memory.above]

theorem Memory.above_erase {a : Nat} {m : Memory} (h : Memory.above a m = true) (x : Nat) :
    Memory.above a (Memory.erase m x) = true := by
  rw [Memory.above_iff] at *
  exact fun c hc => h c (List.mem_of_mem_filter hc)

theorem Memory.mem_put {m : Memory} {a : Nat} {b : Byte} {c : Host.Cell} (h : c ∈ Memory.put m a b) :
    c = (a, b) ∨ c ∈ m := by
  induction m with
  | nil => simpa [Memory.put] using h
  | cons d m ih =>
    obtain ⟨k, v⟩ := d
    simp only [Memory.put] at h
    split at h
    · simpa using h
    · split at h
      · rcases List.mem_cons.mp h with h | h
        · exact .inl h
        · exact .inr (List.mem_cons_of_mem _ h)
      · rcases List.mem_cons.mp h with h | h
        · exact .inr (by simp [h])
        · exact (ih h).imp id (List.mem_cons_of_mem _)

theorem Memory.wf_erase {m : Memory} (h : Memory.wf m = true) (a : Nat) :
    Memory.wf (Memory.erase m a) = true := by
  induction m with
  | nil => rfl
  | cons c m ih =>
    obtain ⟨k, v⟩ := c
    simp only [Memory.wf, Bool.and_eq_true] at h
    obtain ⟨⟨⟨hk, hv⟩, ha⟩, hm⟩ := h
    have he := ih hm
    by_cases hka : k = a
    · simpa [Memory.erase, hka] using he
    · have e : Memory.erase ((k, v) :: m) a = (k, v) :: Memory.erase m a := by
        simp [Memory.erase, hka]
      rw [e]
      simp only [Memory.wf, Bool.and_eq_true]
      exact ⟨⟨⟨hk, hv⟩, Memory.above_erase ha a⟩, he⟩

theorem Memory.wf_put {m : Memory} (h : Memory.wf m = true) {a : Nat} {b : Byte} (ha : a < Config.memSize)
    (hb : b ≠ 0#8) : Memory.wf (Memory.put m a b) = true := by
  induction m with
  | nil => simp [Memory.put, Memory.wf, Memory.above, ha, hb]
  | cons c m ih =>
    obtain ⟨k, v⟩ := c
    have hw := h
    simp only [Memory.wf, Bool.and_eq_true, Memory.above_iff, decide_eq_true_eq] at h
    obtain ⟨⟨⟨hk, hv⟩, hab⟩, hm⟩ := h
    simp only [Memory.put]
    split
    · rename_i hlt
      simp only [Memory.wf, Bool.and_eq_true, Memory.above_iff, decide_eq_true_eq]
      refine ⟨⟨⟨ha, by simpa using hb⟩, ?_⟩, ⟨⟨hk, hv⟩, hab⟩, hm⟩
      intro c hc
      rcases List.mem_cons.mp hc with rfl | hc
      · exact hlt
      · exact hlt.trans (hab c hc)
    · split
      · subst_vars
        simp only [Memory.wf, Bool.and_eq_true, Memory.above_iff, decide_eq_true_eq]
        exact ⟨⟨⟨ha, by simpa using hb⟩, hab⟩, hm⟩
      · simp only [Memory.wf, Bool.and_eq_true, Memory.above_iff, decide_eq_true_eq]
        refine ⟨⟨⟨hk, hv⟩, fun c hc => ?_⟩, ih hm⟩
        rcases Memory.mem_put hc with rfl | hc
        · show k < a
          omega
        · exact hab c hc

/-- A write in range keeps the canonical form. -/
theorem Memory.wf_write {m : Memory} (h : Memory.wf m = true) {a : Nat} (ha : a < Config.memSize) (b : Byte) :
    Memory.wf (Memory.write m a b) = true := by
  unfold Memory.write
  split
  · exact Memory.wf_erase h a
  · exact Memory.wf_put h ha ‹_›

/-- The raw store keeps the canonical form (R80). -/
theorem Memory.wf_storeByte {m : Memory} (h : Memory.wf m = true) (a : Word) (b : Byte) :
    Memory.wf (Memory.storeByte m a b) = true := by
  unfold Memory.storeByte
  split
  · exact Memory.wf_write h (by simpa [inRange] using ‹inRange a = true›) b
  · exact h

/-- Loading bytes that end in range keeps the canonical form (R431). -/
theorem Memory.wf_load {m : Memory} (h : Memory.wf m = true) {a : Nat} {bytes : List Byte}
    (ha : a + bytes.length ≤ Config.memSize) : Memory.wf (Memory.load m a bytes) = true := by
  induction bytes generalizing m a with
  | nil => exact h
  | cons b bs ih =>
    simp only [List.length_cons] at ha
    exact ih (Memory.wf_write h (by omega) b) (by omega)

/-- The memory of a machine just created is in the canonical form. -/
theorem Memory.wf_created (p : Setup) : Memory.wf (State.created p).mem = true := rfl

/-- What a loaded memory reads: the bytes loaded, and elsewhere what was there (R431). -/
theorem Memory.read_load (m : Memory) (a : Nat) (bytes : List Byte) (x : Nat) :
    Memory.read (Memory.load m a bytes) x =
      if a ≤ x ∧ x < a + bytes.length then bytes.getD (x - a) 0#8 else Memory.read m x := by
  induction bytes generalizing m a with
  | nil => simp [Memory.load]
  | cons b bs ih =>
    simp only [Memory.load, ih, Memory.read_write, List.length_cons]
    by_cases h1 : x = a
    · subst h1; simp
    · by_cases h2 : a + 1 ≤ x ∧ x < a + 1 + bs.length
      · have h3 : a ≤ x ∧ x < a + (bs.length + 1) := by omega
        obtain ⟨k, rfl⟩ : ∃ k, x = a + 1 + k := ⟨x - (a + 1), by omega⟩
        rw [if_pos h2, if_pos h3]
        have e1 : a + 1 + k - (a + 1) = k := by omega
        have e2 : a + 1 + k - a = k + 1 := by omega
        rw [e1, e2, List.getD_cons_succ]
      · have h3 : ¬(a ≤ x ∧ x < a + (bs.length + 1)) := by omega
        rw [if_neg h2, if_neg h3, if_neg h1]

end Sys2Proof.Machine
end

