-- ==== Sys2Proof/Laws/Registers.lean ====
section
/-!
SUPPORT. The laws of the register file, the selectors and the flags word: a read after a write to the same place gives what
was written, and a write leaves every other place alone.
-/

namespace Sys2Proof.Machine

/-- What a register reads after a write to the file. -/
theorem Regs.get_set (r : Regs) (i j : Fin 8) (v : Word) :
    (r.set i v).get j = if j = i then v else r.get j := by
  fin_cases i <;> fin_cases j <;> rfl

/-- What a register reads after a register write (R12). -/
theorem State.reg_setReg (s : State) (i j : Fin 8) (v : Word) :
    (s.setReg i v).reg j = if j = i then v else s.reg j := Regs.get_set s.regs i j v

@[simp] theorem State.reg_setReg_self (s : State) (i : Fin 8) (v : Word) : (s.setReg i v).reg i = v := by
  simp [State.reg_setReg]

theorem State.reg_setReg_ne (s : State) {i j : Fin 8} (h : j ≠ i) (v : Word) :
    (s.setReg i v).reg j = s.reg j := by
  simp [State.reg_setReg, h]

/-- Two register files that read alike are equal. -/
theorem Regs.ext_get {r q : Regs} (h : ∀ i, r.get i = q.get i) : r = q := by
  cases r; cases q
  simpa [Regs.get] using ⟨h 0, h 1, h 2, h 3, h 4, h 5, h 6, h 7⟩

/-- What a selector reads after a selector write (R49). -/
theorem State.seg_setSeg (s : State) (k j : Sel) (v : Half) :
    (s.setSeg k v).seg j = if j = k then v else s.seg j := by
  cases k <;> cases j <;> rfl

/-- A field of 0 to 5, and no other, names a selector (R49, R135). -/
theorem Sel.ofField_isSome (k : BitVec 3) : (Sel.ofField k).isSome = selectorFieldOk k := by
  revert k; decide

/-- The bits of a word after one bit is put. -/
theorem getLsbD_putBit (w : Word) {k : Nat} (hk : k < 32) (b : Bool) (j : Nat) :
    (putBit w k b).getLsbD j = if j = k then b else w.getLsbD j := by
  unfold putBit
  by_cases hj : j = k
  · subst hj
    cases b <;> simp [hk]
  · by_cases hlt : j < 32
    · cases b <;> simp [hj, hlt] <;> omega
    · cases b <;> simp [hj, BitVec.getLsbD_of_ge _ j (by omega : 32 ≤ j)]

/-- What a flag reads after a flag write (R41, R221). -/
theorem State.flag_setFlag (s : State) {k : Nat} (hk : k < 32) (b : Bool) (j : Nat) :
    (s.setFlag k b).flag j = if j = k then b else s.flag j := getLsbD_putBit s.flags hk b j

/-- The register a valid index byte names (R34). -/
theorem regIndex?_of_lt {b : Byte} (h : b.toNat < 8) : regIndex? b = some ⟨b.toNat, h⟩ := by
  simp [regIndex?, h]

/-- An index byte of 8 or more names none (R34). -/
theorem regIndex?_of_ge {b : Byte} (h : 8 ≤ b.toNat) : regIndex? b = none := by
  simp [regIndex?, Nat.not_lt.mpr h]

/-- The byte of a register's number names it. -/
@[simp] theorem regIndex?_ofNat (i : Fin 8) : regIndex? (BitVec.ofNat 8 i) = some i := by
  revert i; decide

/-- Everything a one-register guard can answer (R16). -/
theorem guard1_cases (r : Byte) (len : Word) (s : State) (body : Fin 8 → State) :
    (∃ i, regIndex? r = some i ∧ guard1 r len s body = .next ((body i).advance s len)) ∨
    (8 ≤ r.toNat ∧ guard1 r len s body = .next (s.advance s len)) := by
  by_cases h : r.toNat < 8
  · exact .inl ⟨_, regIndex?_of_lt h, by simp [guard1, regIndex?_of_lt h]⟩
  · exact .inr ⟨by omega, by simp [guard1, regIndex?_of_ge (Nat.not_lt.mp h)]⟩

/-- Everything a two-register guard can answer (R16). -/
theorem guard2_cases (d e : Byte) (len : Word) (s : State) (body : Fin 8 → Fin 8 → State) :
    (∃ i j, regIndex? d = some i ∧ regIndex? e = some j ∧
      guard2 d e len s body = .next ((body i j).advance s len)) ∨
    ((8 ≤ d.toNat ∨ 8 ≤ e.toNat) ∧ guard2 d e len s body = .next (s.advance s len)) := by
  by_cases hd : d.toNat < 8
  · by_cases he : e.toNat < 8
    · exact .inl ⟨_, _, regIndex?_of_lt hd, regIndex?_of_lt he, by
        simp [guard2, regIndex?_of_lt hd, regIndex?_of_lt he]⟩
    · exact .inr ⟨.inr (by omega), by
        simp [guard2, regIndex?_of_lt hd, regIndex?_of_ge (Nat.not_lt.mp he)]⟩
  · exact .inr ⟨.inl (by omega), by simp [guard2, regIndex?_of_ge (Nat.not_lt.mp hd)]⟩

end Sys2Proof.Machine
end

