-- ==== Sys2Proof/Laws/Bus.lean ====
section
/-!
SUPPORT. One lemma for each shared operation over the bus and the stack that says all it does, in closed form, and the
fields it leaves alone.
-/

namespace Sys2Proof.Machine

/-- The raw stores of one access, byte by byte (R80, R81). -/
def storedBytes (m : Memory) (a : Word) : List Byte → Memory
  | [] => m
  | b :: bs => storedBytes (Memory.storeByte m a b) (a + 1#32) bs

/-! ## Closed forms -/

/-- All a read's report does. -/
theorem State.noteRead_eq (s : State) (a : Word) (n : Nat) : s.noteRead a n = s.emit (readReport a n) := by
  unfold State.noteRead readReport
  split <;> simp [State.raise]

/-- All a write's report does. -/
theorem State.noteWrite_eq (s : State) (a : Word) (n : Nat) : s.noteWrite a n = s.emit (writeReport a n) := by
  unfold State.noteWrite writeReport
  split <;> simp [State.raise]

/-- All that the byte writes of an access do. -/
theorem State.busWrites_eq (s : State) (a : Word) (bytes : List Byte) :
    s.busWrites a bytes =
      State.emit { s with mem := storedBytes s.mem a bytes } (accessHooks s.setup.hooks a bytes) := by
  induction bytes generalizing s a with
  | nil => simp [State.busWrites, storedBytes, accessHooks]
  | cons b bs ih =>
    simp [State.busWrites, storedBytes, accessHooks, State.busWrite, ih, State.emit]

/-- All that a write access does (R74, R80 to R82). -/
theorem State.memWrite_eq (s : State) (a : Word) (bytes : List Byte) :
    s.memWrite a bytes =
      State.emit { s with lwa := some a, mem := storedBytes s.mem a bytes }
        (storeOutputs s.setup.hooks a bytes) := by
  simp [State.memWrite, State.noteWrite_eq, State.busWrites_eq, State.emit, storeOutputs]

/-! ## The fields of an access -/

@[simp] theorem State.memWrite_regs (s : State) (a : Word) (bs : List Byte) : (s.memWrite a bs).regs = s.regs := by
  rw [State.memWrite_eq]; rfl
@[simp] theorem State.memWrite_pc (s : State) (a : Word) (bs : List Byte) : (s.memWrite a bs).pc = s.pc := by
  rw [State.memWrite_eq]; rfl
@[simp] theorem State.memWrite_flags (s : State) (a : Word) (bs : List Byte) : (s.memWrite a bs).flags = s.flags := by
  rw [State.memWrite_eq]; rfl
@[simp] theorem State.memWrite_segs (s : State) (a : Word) (bs : List Byte) : (s.memWrite a bs).segs = s.segs := by
  rw [State.memWrite_eq]; rfl
@[simp] theorem State.memWrite_cycles (s : State) (a : Word) (bs : List Byte) : (s.memWrite a bs).cycles = s.cycles := by
  rw [State.memWrite_eq]; rfl
@[simp] theorem State.memWrite_curRow (s : State) (a : Word) (bs : List Byte) : (s.memWrite a bs).curRow = s.curRow := by
  rw [State.memWrite_eq]; rfl
@[simp] theorem State.memWrite_curCol (s : State) (a : Word) (bs : List Byte) : (s.memWrite a bs).curCol = s.curCol := by
  rw [State.memWrite_eq]; rfl
@[simp] theorem State.memWrite_run (s : State) (a : Word) (bs : List Byte) : (s.memWrite a bs).run = s.run := by
  rw [State.memWrite_eq]; rfl
@[simp] theorem State.memWrite_bpos (s : State) (a : Word) (bs : List Byte) : (s.memWrite a bs).bpos = s.bpos := by
  rw [State.memWrite_eq]; rfl
@[simp] theorem State.memWrite_batch (s : State) (a : Word) (bs : List Byte) : (s.memWrite a bs).batch = s.batch := by
  rw [State.memWrite_eq]; rfl
@[simp] theorem State.memWrite_setup (s : State) (a : Word) (bs : List Byte) : (s.memWrite a bs).setup = s.setup := by
  rw [State.memWrite_eq]; rfl
@[simp] theorem State.memWrite_shutdownAt (s : State) (a : Word) (bs : List Byte) : (s.memWrite a bs).shutdownAt = s.shutdownAt := by
  rw [State.memWrite_eq]; rfl
@[simp] theorem State.memWrite_lwa (s : State) (a : Word) (bs : List Byte) : (s.memWrite a bs).lwa = some a := by
  rw [State.memWrite_eq]; rfl
@[simp] theorem State.memWrite_mem (s : State) (a : Word) (bs : List Byte) :
    (s.memWrite a bs).mem = storedBytes s.mem a bs := by
  rw [State.memWrite_eq]; rfl
@[simp] theorem State.memWrite_events (s : State) (a : Word) (bs : List Byte) :
    (s.memWrite a bs).events = s.events ++ storeOutputs s.setup.hooks a bs := by
  rw [State.memWrite_eq]; rfl
@[simp] theorem State.memWrite_reg (s : State) (a : Word) (bs : List Byte) (i : Fin 8) :
    (s.memWrite a bs).reg i = s.reg i := by
  simp [State.reg]
@[simp] theorem State.memWrite_flag (s : State) (a : Word) (bs : List Byte) (k : Nat) :
    (s.memWrite a bs).flag k = s.flag k := by
  simp [State.flag]

@[simp] theorem State.noteRead_regs (s : State) (a : Word) (n : Nat) : (s.noteRead a n).regs = s.regs := by
  rw [State.noteRead_eq]; rfl
@[simp] theorem State.noteRead_pc (s : State) (a : Word) (n : Nat) : (s.noteRead a n).pc = s.pc := by
  rw [State.noteRead_eq]; rfl
@[simp] theorem State.noteRead_flags (s : State) (a : Word) (n : Nat) : (s.noteRead a n).flags = s.flags := by
  rw [State.noteRead_eq]; rfl
@[simp] theorem State.noteRead_segs (s : State) (a : Word) (n : Nat) : (s.noteRead a n).segs = s.segs := by
  rw [State.noteRead_eq]; rfl
@[simp] theorem State.noteRead_lwa (s : State) (a : Word) (n : Nat) : (s.noteRead a n).lwa = s.lwa := by
  rw [State.noteRead_eq]; rfl
@[simp] theorem State.noteRead_cycles (s : State) (a : Word) (n : Nat) : (s.noteRead a n).cycles = s.cycles := by
  rw [State.noteRead_eq]; rfl
@[simp] theorem State.noteRead_curRow (s : State) (a : Word) (n : Nat) : (s.noteRead a n).curRow = s.curRow := by
  rw [State.noteRead_eq]; rfl
@[simp] theorem State.noteRead_curCol (s : State) (a : Word) (n : Nat) : (s.noteRead a n).curCol = s.curCol := by
  rw [State.noteRead_eq]; rfl
@[simp] theorem State.noteRead_run (s : State) (a : Word) (n : Nat) : (s.noteRead a n).run = s.run := by
  rw [State.noteRead_eq]; rfl
@[simp] theorem State.noteRead_bpos (s : State) (a : Word) (n : Nat) : (s.noteRead a n).bpos = s.bpos := by
  rw [State.noteRead_eq]; rfl
@[simp] theorem State.noteRead_batch (s : State) (a : Word) (n : Nat) : (s.noteRead a n).batch = s.batch := by
  rw [State.noteRead_eq]; rfl
@[simp] theorem State.noteRead_mem (s : State) (a : Word) (n : Nat) : (s.noteRead a n).mem = s.mem := by
  rw [State.noteRead_eq]; rfl
@[simp] theorem State.noteRead_setup (s : State) (a : Word) (n : Nat) : (s.noteRead a n).setup = s.setup := by
  rw [State.noteRead_eq]; rfl
@[simp] theorem State.noteRead_shutdownAt (s : State) (a : Word) (n : Nat) : (s.noteRead a n).shutdownAt = s.shutdownAt := by
  rw [State.noteRead_eq]; rfl
@[simp] theorem State.noteRead_events (s : State) (a : Word) (n : Nat) :
    (s.noteRead a n).events = s.events ++ readReport a n := by
  rw [State.noteRead_eq]; rfl
@[simp] theorem State.noteRead_reg (s : State) (a : Word) (n : Nat) (i : Fin 8) : (s.noteRead a n).reg i = s.reg i := by
  simp [State.reg]
@[simp] theorem State.noteRead_flag (s : State) (a : Word) (n k : Nat) : (s.noteRead a n).flag k = s.flag k := by
  simp [State.flag]
@[simp] theorem State.noteRead_readByte (s : State) (a : Word) (n : Nat) (x : Word) :
    (s.noteRead a n).readByte x = s.readByte x := by
  simp [State.readByte]

/-! ## What memory reads after an access -/

/-- What a byte reads after the raw store of one byte (R72, R80). -/
theorem Memory.read_storeByte (m : Memory) (a x : Word) (b : Byte) (hx : inRange x = true) :
    Memory.read (Memory.storeByte m a b) x.toNat = if x = a then b else Memory.read m x.toNat := by
  unfold Memory.storeByte
  split
  · rw [Memory.read_write]
    by_cases h : x = a
    · simp [h]
    · have hn : x.toNat ≠ a.toNat := fun e => h (BitVec.eq_of_toNat_eq e)
      simp [h, hn]
  · by_cases h : x = a
    · subst h; contradiction
    · simp [h]

/-- What a byte reads after the raw stores of an access of at most 2^32 bytes (R81). -/
theorem Memory.read_storedBytes (m : Memory) (a x : Word) (bytes : List Byte) (hx : inRange x = true)
    (hn : bytes.length ≤ 2 ^ 32) :
    Memory.read (storedBytes m a bytes) x.toNat =
      if inAccess a bytes.length x then bytes.getD (x - a).toNat 0#8 else Memory.read m x.toNat := by
  induction bytes generalizing m a with
  | nil => simp [storedBytes, inAccess]
  | cons b bs ih =>
    simp only [List.length_cons] at hn
    rw [storedBytes, ih _ _ (by omega), Memory.read_storeByte _ _ _ _ hx]
    simp only [inAccess, List.length_cons, decide_eq_true_eq]
    by_cases h : x = a
    · subst h
      have h1 : ¬(x - (x + 1#32)).toNat < bs.length := by bv_omega
      rw [if_neg h1]
      simp
    · have h1 : (x - a).toNat = (x - (a + 1#32)).toNat + 1 := by bv_omega
      simp [h1, h]

/-- What a byte reads after a write access (R72, R80, R81). -/
theorem State.readByte_memWrite (s : State) (a x : Word) (bytes : List Byte) (hn : bytes.length ≤ 2 ^ 32) :
    (s.memWrite a bytes).readByte x =
      if inRange x && inAccess a bytes.length x then bytes.getD (x - a).toNat 0#8 else s.readByte x := by
  unfold State.readByte
  by_cases hx : inRange x = true
  · simp [hx, Memory.read_storedBytes _ _ _ _ hx hn]
  · simp [hx]

/-- An access keeps memory's canonical form. -/
theorem Memory.wf_storedBytes {m : Memory} (h : Memory.wf m = true) (a : Word) (bytes : List Byte) :
    Memory.wf (storedBytes m a bytes) = true := by
  induction bytes generalizing m a with
  | nil => exact h
  | cons b bs ih => exact ih (Memory.wf_storeByte h a b) _

/-! ## The stack and the handler -/

/-- All a push does (R169, R173). -/
theorem State.pushBytes_eq (s : State) (bytes : List Byte) :
    s.pushBytes bytes =
      (s.setReg 7 (s.sp - BitVec.ofNat 32 bytes.length)).memWrite (s.sp - BitVec.ofNat 32 bytes.length) bytes := rfl

/-- All a pop does, beside giving its value (R170, R174). -/
theorem State.popped_eq (s : State) (n : Nat) :
    s.popped n = (s.emit (readReport s.sp n)).setReg 7 (s.sp + BitVec.ofNat 32 n) := by
  simp [State.popped, State.noteRead_eq]

/-- All a copy of single bytes does to the fields that are not memory, lwa or output (R396). -/
theorem State.copyBytes_frame (s : State) (a : Word) (bytes : List Byte) :
    ∃ l m es, s.copyBytes a bytes = { s with lwa := l, mem := m, events := s.events ++ es } := by
  induction bytes generalizing s a with
  | nil => exact ⟨s.lwa, s.mem, [], by simp [State.copyBytes]⟩
  | cons b bs ih =>
    obtain ⟨l, m, es, h⟩ := ih (s.memWrite a [b]) (a + 1#32)
    exact ⟨l, m, storeOutputs s.setup.hooks a [b] ++ es, by
      rw [State.copyBytes, h, State.memWrite_eq]; simp [State.emit]⟩

end Sys2Proof.Machine
end

