-- ==== Sys2Proof/Laws/Frames.lean ====
section
/-!
SUPPORT. The frame laws: how each update of the state keeps a frame (`NoStore`, `Stores`), so that the frame of an instruction is
read off its meaning update by update, and the two guards as rules (R16).
-/

namespace Sys2Proof.Machine

variable {s t u : State} {rs : List (Fin 8)} {bits : List Nat} {new : List Event}
  {a : Word} {bytes : List Byte} {last : Option Word}

/-! ## Nothing stored -/

/-- A state keeps itself. -/
theorem NoStore.refl (s : State) (rs : List (Fin 8)) (bits : List Nat) : NoStore s s rs bits [] where
  regs := fun _ _ => rfl
  flags := fun _ _ => rfl
  segs := rfl
  curRow := rfl
  curCol := rfl
  cycles := rfl
  run := rfl
  bpos := rfl
  batch := rfl
  setup := rfl
  shutdownAt := rfl
  lwa := rfl
  memory := fun _ => rfl
  events := by simp

theorem NoStore.setPc (h : NoStore s t rs bits new) (v : Word) : NoStore s (t.setPc v) rs bits new :=
  { h with }

theorem NoStore.advance (h : NoStore s t rs bits new) (u : State) (len : Word) :
    NoStore s (t.advance u len) rs bits new := h.setPc _

theorem NoStore.setReg (h : NoStore s t rs bits new) {i : Fin 8} (hi : i ∈ rs) (v : Word) :
    NoStore s (t.setReg i v) rs bits new :=
  { h with
    regs := fun j hj => by
      rw [State.reg_setReg_ne _ (fun e : j = i => hj (e ▸ hi))]
      exact h.regs j hj }

theorem NoStore.setFlags (h : NoStore s t rs bits new) (w : Word) (hw : ∀ k, k ∉ bits → w.getLsbD k = s.flag k) :
    NoStore s (t.setFlags w) rs bits new :=
  { h with flags := fun k hk => hw k hk }

theorem NoStore.setFlag (h : NoStore s t rs bits new) {k : Nat} (hk : k ∈ bits) (h32 : k < 32) (b : Bool) :
    NoStore s (t.setFlag k b) rs bits new :=
  { h with
    flags := fun j hj => by
      rw [State.flag_setFlag t h32, if_neg (fun e : j = k => hj (e ▸ hk))]
      exact h.flags j hj }

theorem NoStore.setZF (h : NoStore s t rs bits new) (hk : zfBit ∈ bits) (b : Bool) :
    NoStore s (t.setZF b) rs bits new := h.setFlag hk (by decide) b

theorem NoStore.setCF (h : NoStore s t rs bits new) (hk : cfBit ∈ bits) (b : Bool) :
    NoStore s (t.setCF b) rs bits new := h.setFlag hk (by decide) b

theorem NoStore.emit (h : NoStore s t rs bits new) (es : List Event) : NoStore s (t.emit es) rs bits (new ++ es) :=
  { h with
    memory := fun x => h.memory x
    events := by simp [h.events] }

theorem NoStore.noteRead (h : NoStore s t rs bits new) (x : Word) (n : Nat) :
    NoStore s (t.noteRead x n) rs bits (new ++ readReport x n) := by
  rw [State.noteRead_eq]; exact h.emit _

/-- A frame with more allowed is a frame. -/
theorem NoStore.mono (h : NoStore s t rs bits new) {rs' : List (Fin 8)} {bits' : List Nat} (hr : ∀ i, i ∈ rs → i ∈ rs')
    (hb : ∀ k, k ∈ bits → k ∈ bits') : NoStore s t rs' bits' new :=
  { h with
    regs := fun i hi => h.regs i fun e => hi (hr i e)
    flags := fun k hk => h.flags k fun e => hk (hb k e) }

/-- Frames compose. -/
theorem NoStore.trans {new' : List Event} (h : NoStore s t rs bits new) (h' : NoStore t u rs bits new') :
    NoStore s u rs bits (new ++ new') where
  regs := fun i hi => (h'.regs i hi).trans (h.regs i hi)
  flags := fun k hk => (h'.flags k hk).trans (h.flags k hk)
  segs := h'.segs.trans h.segs
  curRow := h'.curRow.trans h.curRow
  curCol := h'.curCol.trans h.curCol
  cycles := h'.cycles.trans h.cycles
  run := h'.run.trans h.run
  bpos := h'.bpos.trans h.bpos
  batch := h'.batch.trans h.batch
  setup := h'.setup.trans h.setup
  shutdownAt := h'.shutdownAt.trans h.shutdownAt
  lwa := h'.lwa.trans h.lwa
  memory := fun x => (h'.memory x).trans (h.memory x)
  events := by rw [h'.events, h.events, List.append_assoc]

/-! ## One region stored -/

/-- A write access after updates that store nothing. -/
theorem NoStore.memWrite (h : NoStore s t rs bits new) (a : Word) (bytes : List Byte) (hn : bytes.length ≤ 2 ^ 32) :
    Stores s (t.memWrite a bytes) rs bits a bytes (some a) (new ++ storeOutputs s.setup.hooks a bytes) where
  regs := fun i hi => by rw [State.memWrite_reg]; exact h.regs i hi
  flags := fun k hk => by rw [State.memWrite_flag]; exact h.flags k hk
  segs := by simp [h.segs]
  curRow := by simp [h.curRow]
  curCol := by simp [h.curCol]
  cycles := by simp [h.cycles]
  run := by simp [h.run]
  bpos := by simp [h.bpos]
  batch := by simp [h.batch]
  setup := by simp [h.setup]
  shutdownAt := by simp [h.shutdownAt]
  lwa := by simp
  stored := fun x hx hr => by rw [State.readByte_memWrite _ _ _ _ hn]; simp [hx, hr]
  outside := fun x hx => by rw [State.readByte_memWrite _ _ _ _ hn]; simp [hx, h.memory x]
  events := by simp [h.events, h.setup]

theorem Stores.setPc (h : Stores s t rs bits a bytes last new) (v : Word) :
    Stores s (t.setPc v) rs bits a bytes last new := { h with }

theorem Stores.advance (h : Stores s t rs bits a bytes last new) (u : State) (len : Word) :
    Stores s (t.advance u len) rs bits a bytes last new := h.setPc _

theorem Stores.setReg (h : Stores s t rs bits a bytes last new) {i : Fin 8} (hi : i ∈ rs) (v : Word) :
    Stores s (t.setReg i v) rs bits a bytes last new :=
  { h with
    regs := fun j hj => by
      rw [State.reg_setReg_ne _ (fun e : j = i => hj (e ▸ hi))]
      exact h.regs j hj }

theorem Stores.setFlag (h : Stores s t rs bits a bytes last new) {k : Nat} (hk : k ∈ bits) (h32 : k < 32) (b : Bool) :
    Stores s (t.setFlag k b) rs bits a bytes last new :=
  { h with
    flags := fun j hj => by
      rw [State.flag_setFlag t h32, if_neg (fun e : j = k => hj (e ▸ hk))]
      exact h.flags j hj }

theorem Stores.emit (h : Stores s t rs bits a bytes last new) (es : List Event) :
    Stores s (t.emit es) rs bits a bytes last (new ++ es) :=
  { h with
    stored := fun x hx hr => h.stored x hx hr
    outside := fun x hx => h.outside x hx
    events := by simp [h.events] }

/-! ## Adjoining regions and block copies -/

theorem inAccess_zero (a x : Word) : inAccess a 0 x = false := by simp [inAccess]

theorem toNat_sub_succ {a x : Word} (h : x ≠ a) : (x - a).toNat = (x - (a + 1#32)).toNat + 1 := by bv_omega

theorem inAccess_succ (a x : Word) (n : Nat) : inAccess a (n + 1) x = (decide (x = a) || inAccess (a + 1#32) n x) := by
  simp only [inAccess]
  by_cases h : x = a
  · subst h; simp
  · simp [h, toNat_sub_succ h]

theorem inAccess_above (a : Word) {n : Nat} (hn : n < 2 ^ 32) : inAccess (a + 1#32) n a = false := by
  simp only [inAccess, decide_eq_false_iff_not]; bv_omega

/-- Nothing stored is an empty region stored. -/
theorem NoStore.stores_nil (h : NoStore s t rs bits new) (a : Word) : Stores s t rs bits a [] s.lwa new :=
  { h with
    stored := by intro x hx; simp [inAccess_zero] at hx
    outside := fun x _ => h.memory x }

/-- One byte stored, then the region above it. -/
theorem Stores.cons {b : Byte} {first : Option Word} {new' : List Event} (h : Stores s t rs bits a [b] first new)
    (h' : Stores t u rs bits (a + 1#32) bytes last new') (hn : bytes.length < 2 ^ 32) :
    Stores s u rs bits a (b :: bytes) last (new ++ new') where
  regs := fun i hi => (h'.regs i hi).trans (h.regs i hi)
  flags := fun k hk => (h'.flags k hk).trans (h.flags k hk)
  segs := h'.segs.trans h.segs
  curRow := h'.curRow.trans h.curRow
  curCol := h'.curCol.trans h.curCol
  cycles := h'.cycles.trans h.cycles
  run := h'.run.trans h.run
  bpos := h'.bpos.trans h.bpos
  batch := h'.batch.trans h.batch
  setup := h'.setup.trans h.setup
  shutdownAt := h'.shutdownAt.trans h.shutdownAt
  lwa := h'.lwa
  stored := by
    intro x hx hr
    rw [List.length_cons, inAccess_succ, Bool.or_eq_true] at hx
    by_cases e : x = a
    · subst e
      rw [h'.outside _ (inAccess_above _ hn), h.stored _ (by simp [inAccess]) hr]; simp
    · have hx : inAccess (a + 1#32) bytes.length x = true := by simpa [e] using hx
      rw [h'.stored x hx hr, toNat_sub_succ e]; simp
  outside := by
    intro x hx
    rw [List.length_cons, inAccess_succ, Bool.or_eq_false_iff] at hx
    rw [h'.outside x hx.2, h.outside x]
    simp [inAccess_succ a x 0, hx.1, inAccess_zero]
  events := by rw [h'.events, h.events, List.append_assoc]

theorem lastWritten_succ (a : Word) (n : Nat) (l : Option Word) :
    lastWritten (a + 1#32) n (some a) = lastWritten a (n + 1) l := by
  simp only [lastWritten]
  by_cases h : n = 0
  · subst h; simp
  · simp [h]; rw [BitVec.ofNat_add]; bv_omega

/-- All a copy of single bytes does (R396). -/
theorem stores_copyBytes (rs : List (Fin 8)) (bits : List Nat) (s : State) (a : Word) (bytes : List Byte)
    (hn : bytes.length < 2 ^ 32) :
    Stores s (s.copyBytes a bytes) rs bits a bytes (lastWritten a bytes.length s.lwa)
      (copyOutputs s.setup.hooks a bytes) := by
  induction bytes generalizing s a with
  | nil => exact (NoStore.refl _ _ _).stores_nil _
  | cons b bs ih =>
    simp only [List.length_cons] at hn
    have h := ((NoStore.refl s rs bits).memWrite a [b] (by simp)).cons
      (ih (s.memWrite a [b]) (a + 1#32) (by omega)) (by omega)
    rw [State.memWrite_lwa, lastWritten_succ _ _ s.lwa, State.memWrite_setup] at h
    simpa [State.copyBytes, copyOutputs] using h

/-! ## Shared operations, each with its frame -/

@[simp] theorem State.zf_setZF (s : State) (b : Bool) : (s.setZF b).zf = b := by
  simp [State.setZF, State.zf, State.flag_setFlag, zfBit]

@[simp] theorem State.cf_setCF (s : State) (b : Bool) : (s.setCF b).cf = b := by
  simp [State.setCF, State.cf, State.flag_setFlag, cfBit]

@[simp] theorem State.zf_setCF (s : State) (b : Bool) : (s.setCF b).zf = s.zf := by
  simp [State.setCF, State.zf, State.flag_setFlag, zfBit, cfBit]

@[simp] theorem State.cf_setZF (s : State) (b : Bool) : (s.setZF b).cf = s.cf := by
  simp [State.setZF, State.cf, State.flag_setFlag, zfBit, cfBit]

@[simp] theorem State.setZF_reg (s : State) (b : Bool) (i : Fin 8) : (s.setZF b).reg i = s.reg i := rfl
@[simp] theorem State.setCF_reg (s : State) (b : Bool) (i : Fin 8) : (s.setCF b).reg i = s.reg i := rfl
@[simp] theorem State.zeroFlag_reg (s : State) (v : Word) (i : Fin 8) : (s.zeroFlag v).reg i = s.reg i := rfl
@[simp] theorem State.advance_zf (s u : State) (len : Word) : (s.advance u len).zf = s.zf := rfl
@[simp] theorem State.advance_cf (s u : State) (len : Word) : (s.advance u len).cf = s.cf := rfl
@[simp] theorem State.setReg_zf (s : State) (i : Fin 8) (v : Word) : (s.setReg i v).zf = s.zf := rfl
@[simp] theorem State.setReg_cf (s : State) (i : Fin 8) (v : Word) : (s.setReg i v).cf = s.cf := rfl

@[simp] theorem State.zf_zeroFlag (s : State) (v : Word) : (s.zeroFlag v).zf = decide (v = 0#32) := by
  simp [State.zeroFlag]; rfl

/-- A register write, then the pc advance. -/
theorem assigns_setReg (s : State) (i : Fin 8) (v len : Word) : Assigns s ((s.setReg i v).advance s len) i v :=
  ⟨by simp, ((NoStore.refl s [i] []).setReg (by simp) v).advance _ _⟩

/-- `State.result`, then the pc advance (R42). -/
theorem results_result (s : State) (i : Fin 8) (v len : Word) : Results s ((s.result i v).advance s len) i v :=
  ⟨by simp [State.result], by simp [State.result],
    (((NoStore.refl s [i] [zfBit]).setReg (by simp) v).setZF (by simp) _).advance _ _⟩

/-- A write access, then the pc advance (R80 to R82). -/
theorem oneStore_memWrite (s : State) (a : Word) (bytes : List Byte) (hn : bytes.length ≤ 2 ^ 32) (len : Word) :
    OneStore s ((s.memWrite a bytes).advance s len) [] [] a bytes :=
  ((NoStore.refl s [] []).memWrite a bytes hn).advance s len

/-- A push: x[7] and the cell (R169, R173). -/
theorem oneStore_pushBytes (s : State) (bytes : List Byte) (hn : bytes.length ≤ 2 ^ 32) :
    (s.pushBytes bytes).reg 7 = s.reg 7 - BitVec.ofNat 32 bytes.length ∧
      OneStore s (s.pushBytes bytes) [7] [] (s.reg 7 - BitVec.ofNat 32 bytes.length) bytes := by
  rw [State.pushBytes_eq]
  exact ⟨by simp [State.sp], ((NoStore.refl s [7] []).setReg (by simp) _).memWrite _ bytes hn⟩

/-- A pop, beside giving its value (R170, R174). -/
theorem noStore_popped (s : State) (n : Nat) :
    (s.popped n).reg 7 = s.reg 7 + BitVec.ofNat 32 n ∧ NoStore s (s.popped n) [7] [] (readReport (s.reg 7) n) := by
  rw [State.popped_eq]
  exact ⟨by simp [State.sp], by simpa [State.sp] using ((NoStore.refl s [7] []).emit _).setReg (i := 7) (by simp) _⟩

/-- `pc <- next` after the body of an instruction that writes no pc (R141). -/
theorem advances_of {i : Instr} {bytes : List Byte} {effect : State → State → Prop} {len : Word} {body : State → State}
    (henc : encode i = bytes) (hlen : BitVec.ofNat 32 bytes.length = len)
    (hexec : ∀ s, exec i s = .next ((body s).advance s len)) (heffect : ∀ s, effect s ((body s).advance s len)) :
    Advances i bytes effect :=
  ⟨henc, fun s => ⟨_, hexec s, by simp [after, hlen], heffect s⟩⟩

/-- A jump that goes where its condition says (R141). -/
theorem jumps_of {i : Instr} {bytes : List Byte} {cond : State → Bool} {target : State → Word}
    (henc : encode i = bytes)
    (hexec : ∀ s, exec i s = .next (s.setPc (if cond s then target s else after s bytes))) :
    Jumps i bytes cond target :=
  ⟨henc, fun s => ⟨_, hexec s, rfl, (NoStore.refl s [] []).setPc _⟩⟩

/-! ## The guards as rules (R16) -/

/-- Moving pc alone changes nothing else. -/
theorem unchanged_advance (s : State) (len : Word) : Unchanged s (s.advance s len) :=
  (NoStore.refl s [] []).advance s len

/-- A meaning that is a one-register guard obeys the guard's rule. -/
theorem registerRule_of_guard1 {c : Byte → Instr} {opcode tail : List Byte} {effect : Fin 8 → State → State → Prop}
    {len : Word} {body : State → Fin 8 → State} (henc : ∀ r, encode (c r) = opcode ++ r :: tail)
    (hlen : BitVec.ofNat 32 (opcode.length + (tail.length + 1)) = len)
    (hexec : ∀ r s, exec (c r) s = guard1 r len s (body s))
    (heffect : ∀ i s, effect i s ((body s i).advance s len)) : RegisterRule c opcode tail effect := by
  intro r
  refine ⟨henc r, fun s => ?_⟩
  have ha : after s (opcode ++ r :: tail) = s.next len := by
    simp only [after, List.length_append, List.length_cons, hlen, State.next]
  rw [hexec, guard1]
  by_cases h : r.toNat < 8
  · rw [regIndex?_of_lt h]
    exact ⟨_, rfl, ha.symm, by beta_reduce; rw [dif_pos h]; exact heffect _ s⟩
  · rw [regIndex?_of_ge (Nat.not_lt.mp h)]
    exact ⟨_, rfl, ha.symm, by beta_reduce; rw [dif_neg h]; exact unchanged_advance s len⟩

/-- A meaning that is a two-register guard obeys the guard's rule. -/
theorem pairRule_of_guard2 {c : Byte → Byte → Instr} {opcode : List Byte} {effect : Fin 8 → Fin 8 → State → State → Prop}
    {len : Word} {body : State → Fin 8 → Fin 8 → State} (henc : ∀ d e, encode (c d e) = opcode ++ [d, e])
    (hlen : BitVec.ofNat 32 (opcode.length + 2) = len)
    (hexec : ∀ d e s, exec (c d e) s = guard2 d e len s (body s))
    (heffect : ∀ i j s, effect i j s ((body s i j).advance s len)) : PairRule c opcode effect := by
  intro d e
  refine ⟨henc d e, fun s => ?_⟩
  have ha : after s (opcode ++ [d, e]) = s.next len := by
    simp only [after, List.length_append, List.length_cons, List.length_nil, State.next, ← hlen]
  rw [hexec, guard2]
  by_cases hd : d.toNat < 8
  · by_cases he : e.toNat < 8
    · rw [regIndex?_of_lt hd, regIndex?_of_lt he]
      exact ⟨_, rfl, ha.symm, by beta_reduce; rw [dif_pos ⟨hd, he⟩]; exact heffect _ _ s⟩
    · rw [regIndex?_of_lt hd, regIndex?_of_ge (Nat.not_lt.mp he)]
      exact ⟨_, rfl, ha.symm, by beta_reduce; rw [dif_neg (fun h => he h.2)]; exact unchanged_advance s len⟩
  · rw [regIndex?_of_ge (Nat.not_lt.mp hd)]
    exact ⟨_, rfl, ha.symm, by beta_reduce; rw [dif_neg (fun h => hd h.1)]; exact unchanged_advance s len⟩

end Sys2Proof.Machine
end

