-- ==== Sys2Proof/Laws/Disk.lean ====
section
/-!
SUPPORT. What the disk service's sector loop does (R396, R397): while the sectors are readable it copies the image's bytes, sector
after sector, which is one copy of their bytes joined.
-/

namespace Sys2Proof.Machine

theorem State.copyBytes_append (s : State) (a : Word) (xs ys : List Byte) :
    s.copyBytes a (xs ++ ys) = (s.copyBytes a xs).copyBytes (a + BitVec.ofNat 32 xs.length) ys := by
  induction xs generalizing s a with
  | nil => simp [State.copyBytes]
  | cons b bs ih =>
    simp only [List.cons_append, State.copyBytes, ih, List.length_cons]
    congr 1
    rw [BitVec.ofNat_add]; bv_omega

@[simp] theorem State.copyBytes_setup (s : State) (a : Word) (xs : List Byte) :
    (s.copyBytes a xs).setup = s.setup := by
  obtain ⟨l, m, es, h⟩ := State.copyBytes_frame s a xs
  rw [h]

@[simp] theorem State.copyBytes_pc (s : State) (a : Word) (xs : List Byte) : (s.copyBytes a xs).pc = s.pc := by
  obtain ⟨l, m, es, h⟩ := State.copyBytes_frame s a xs
  rw [h]

/-- The offset the loop computes for sector `j` (R396). -/
theorem diskOffset_sector (q : DiskRequest) (j : Nat) :
    diskOffset q.cylinder q.head q.sector + ((j * Config.sectorSize : Nat) : Int) =
      diskOffset q.cylinder q.head q.sector + 512 * (j : Int) := by
  simp [Config.sectorSize]; ring

/-- A sector that cannot be read gives no bytes (R397). -/
theorem sectorAt_of_not_readable {s : State} {q : DiskRequest} {j : Nat} (h : ¬sectorReadable s q j) :
    sectorAt s.setup.diskImage (diskOffset q.cylinder q.head q.sector + 512 * (j : Int)) = none := by
  have hss : (Config.sectorSize : Int) = 512 := rfl
  unfold sectorAt
  split
  · rfl
  · rename_i bytes hi
    rw [if_pos]
    by_contra hcon
    push Not at hcon
    exact h ⟨bytes, hi, hcon.1, by have := hcon.2; rw [hss] at this; omega⟩

/-- The bytes of readable sectors (R396). -/
theorem sectorBytes_length {s : State} {q : DiskRequest} {m : Nat} (h : ∀ j, j < m → sectorReadable s q j) :
    (sectorBytes s q m).length = 512 * m := by
  cases m with
  | zero => simp [sectorBytes]
  | succ m =>
    obtain ⟨image, hi, _, h1⟩ := h m (by omega)
    obtain ⟨_, _, h0, _⟩ := h 0 (by omega)
    simp only [sectorBytes, hi, Option.getD_some, List.length_take, List.length_drop]
    simp at h0
    omega

/-- While the sectors are readable, the loop copies their bytes (R396). -/
theorem State.readSectors_readable (s : State) (q : DiskRequest) (m : Nat) (hq : ∀ j, j < m → sectorReadable s q j)
    (extra n i : Nat) (him : i + n = m) :
    State.readSectors q (n + extra) i (s.copyBytes q.dest (sectorBytes s q i)) =
      State.readSectors q extra m (s.copyBytes q.dest (sectorBytes s q m)) := by
  induction n generalizing i with
  | zero =>
    have : i = m := by omega
    subst this; simp
  | succ n ih =>
    rw [show n + 1 + extra = (n + extra) + 1 by omega, State.readSectors]
    obtain ⟨image, hi, h0, h1⟩ := hq i (by omega)
    obtain ⟨_, _, hs0, _⟩ := hq 0 (by omega)
    simp only [Nat.cast_zero, mul_zero, add_zero] at hs0
    have hsec : sectorAt (s.copyBytes q.dest (sectorBytes s q i)).setup.diskImage
        (diskOffset q.cylinder q.head q.sector + ((i * Config.sectorSize : Nat) : Int)) =
        some ((image.drop ((diskOffset q.cylinder q.head q.sector).toNat + 512 * i)).take 512) := by
      have hss : (Config.sectorSize : Int) = 512 := rfl
      rw [State.copyBytes_setup, hi, diskOffset_sector]
      unfold sectorAt
      split
      · rename_i h; simp at h
      · rename_i b h
        cases h
        rw [if_neg (by rw [hss]; omega)]
        congr 3; omega
    simp only [hsec]
    rw [← ih (i + 1) (by omega)]
    congr 1
    have hb : sectorBytes s q (i + 1) =
        sectorBytes s q i ++ (image.drop ((diskOffset q.cylinder q.head q.sector).toNat + 512 * i)).take 512 := by
      simp only [sectorBytes, hi, Option.getD_some]
      rw [show 512 * (i + 1) = 512 * i + 512 by omega, List.take_add, List.drop_drop]
    rw [hb, State.copyBytes_append]
    congr 2
    simp only [sectorBytes, hi, Option.getD_some, List.length_take, List.length_drop, Config.sectorSize]
    congr 1
    omega

end Sys2Proof.Machine
end

