-- ==== Sys2Proof/Laws/Encoding.lean ====
section
/-!
SUPPORT. The laws of little-endian bytes and of the encoder's opcode bytes: taking a value apart and putting it together.
-/

namespace Sys2Proof

/-- A 16-bit value is made of its bytes (R75, R117). -/
theorem le16_bytes (v : Half) : le16 (v.extractLsb' 0 8) (v.extractLsb' 8 8) = v := by
  apply BitVec.eq_of_getLsbD_eq
  intro i hi
  simp only [le16, BitVec.getLsbD_append, BitVec.getLsbD_extractLsb']
  by_cases h : i < 8
  · simp [h]
  · simp [h, show i - 8 < 8 by omega, show 8 + (i - 8) = i by omega]

/-- A 32-bit value is made of its bytes (R75, R116). -/
theorem le32_bytes (v : Word) :
    le32 (v.extractLsb' 0 8) (v.extractLsb' 8 8) (v.extractLsb' 16 8) (v.extractLsb' 24 8) = v := by
  apply BitVec.eq_of_getLsbD_eq
  intro i hi
  simp only [le32, BitVec.getLsbD_append, BitVec.getLsbD_extractLsb']
  by_cases h : i < 8
  · simp [h]
  by_cases h1 : i - 8 < 8
  · simp [h, h1, show 8 + (i - 8) = i by omega]
  by_cases h2 : i - 8 - 8 < 8
  · simp [h, h1, h2, show 16 + (i - 8 - 8) = i by omega]
  · simp [h, h1, h2, show i - 8 - 8 - 8 < 8 by omega, show 24 + (i - 8 - 8 - 8) = i by omega]

/-- The bytes of a value put together from bytes (R75, R116). -/
theorem bytes32_le32 (b0 b1 b2 b3 : Byte) : bytes32 (le32 b0 b1 b2 b3) = [b0, b1, b2, b3] := by
  simp only [bytes32, le32, List.cons.injEq, and_true]
  refine ⟨?_, ?_, ?_, ?_⟩ <;> apply BitVec.eq_of_getLsbD_eq <;> intro i hi <;>
    simp only [BitVec.getLsbD_append, BitVec.getLsbD_extractLsb'] <;> simp [hi]
  · simp [show ¬(16 + i < 8) by omega, show ¬(16 + i - 8 < 8) by omega, show 16 + i - 8 - 8 = i by omega, hi]
  · simp [show ¬(24 + i < 8) by omega, show ¬(24 + i - 8 < 8) by omega, show ¬(24 + i - 8 - 8 < 8) by omega, show 24 + i - 8 - 8 - 8 = i by omega, hi]

/-- The bytes of a value put together from bytes (R75, R117). -/
theorem bytes16_le16 (b0 b1 : Byte) : bytes16 (le16 b0 b1) = [b0, b1] := by
  simp only [bytes16, le16, List.cons.injEq, and_true]
  refine ⟨?_, ?_⟩ <;> apply BitVec.eq_of_getLsbD_eq <;> intro i hi <;>
    simp only [BitVec.getLsbD_append, BitVec.getLsbD_extractLsb'] <;> simp [hi]

@[simp] theorem bytes32_length (v : Word) : (bytes32 v).length = 4 := rfl
@[simp] theorem bytes16_length (v : Half) : (bytes16 v).length = 2 := rfl

/-- The register field of a legacy opcode (R115). -/
theorem lowField_legacyOpcode (h : BitVec 5) (r : BitVec 3) : lowField (legacyOpcode h r) = r := by
  revert h r; decide

/-- The selector field of the segment byte (R122). -/
theorem selectorField_segmentByte (k r : BitVec 3) : selectorField (segmentByte k r) = k := by
  revert k r; decide

/-- The register field of the segment byte (R122). -/
theorem lowField_segmentByte (k r : BitVec 3) : lowField (segmentByte k r) = r := by
  revert k r; decide

end Sys2Proof
end

