-- ==== Sys2Proof/Laws/PerInstr.lean ====
section
/-!
SUPPORT. A family of facts about every instruction as syntax, one lemma for each constructor: an encoding has the length its
format gives it, from 1 to 6 bytes (R110, R113).
-/

namespace Sys2Proof.Laws.EncodedLength

/-- The encoding is from 1 to 6 bytes long (R110). -/
def Statement (i : Instr) : Prop := 1 ≤ i.length ∧ i.length ≤ 6

theorem mov (d : Byte) (s : Byte) : Statement (.mov d s) := ⟨Nat.le_of_ble_eq_true rfl, Nat.le_of_ble_eq_true rfl⟩
theorem movi (r : Byte) (i32 : Word) : Statement (.movi r i32) := ⟨Nat.le_of_ble_eq_true rfl, Nat.le_of_ble_eq_true rfl⟩
theorem lda (r : Byte) (a32 : Word) : Statement (.lda r a32) := ⟨Nat.le_of_ble_eq_true rfl, Nat.le_of_ble_eq_true rfl⟩
theorem sta (r : Byte) (a32 : Word) : Statement (.sta r a32) := ⟨Nat.le_of_ble_eq_true rfl, Nat.le_of_ble_eq_true rfl⟩
theorem ldr (d : Byte) (s : Byte) : Statement (.ldr d s) := ⟨Nat.le_of_ble_eq_true rfl, Nat.le_of_ble_eq_true rfl⟩
theorem str (d : Byte) (s : Byte) : Statement (.str d s) := ⟨Nat.le_of_ble_eq_true rfl, Nat.le_of_ble_eq_true rfl⟩
theorem ldzb (d : Byte) (s : Byte) : Statement (.ldzb d s) := ⟨Nat.le_of_ble_eq_true rfl, Nat.le_of_ble_eq_true rfl⟩
theorem ldsb (d : Byte) (s : Byte) : Statement (.ldsb d s) := ⟨Nat.le_of_ble_eq_true rfl, Nat.le_of_ble_eq_true rfl⟩
theorem strb (d : Byte) (s : Byte) : Statement (.strb d s) := ⟨Nat.le_of_ble_eq_true rfl, Nat.le_of_ble_eq_true rfl⟩
theorem push (r : Byte) : Statement (.push r) := ⟨Nat.le_of_ble_eq_true rfl, Nat.le_of_ble_eq_true rfl⟩
theorem pop (r : Byte) : Statement (.pop r) := ⟨Nat.le_of_ble_eq_true rfl, Nat.le_of_ble_eq_true rfl⟩
theorem add (d : Byte) (s : Byte) : Statement (.add d s) := ⟨Nat.le_of_ble_eq_true rfl, Nat.le_of_ble_eq_true rfl⟩
theorem addi (r : Byte) (i32 : Word) : Statement (.addi r i32) := ⟨Nat.le_of_ble_eq_true rfl, Nat.le_of_ble_eq_true rfl⟩
theorem sub (d : Byte) (s : Byte) : Statement (.sub d s) := ⟨Nat.le_of_ble_eq_true rfl, Nat.le_of_ble_eq_true rfl⟩
theorem subi (r : Byte) (i32 : Word) : Statement (.subi r i32) := ⟨Nat.le_of_ble_eq_true rfl, Nat.le_of_ble_eq_true rfl⟩
theorem inc (r : Byte) : Statement (.inc r) := ⟨Nat.le_of_ble_eq_true rfl, Nat.le_of_ble_eq_true rfl⟩
theorem dec (r : Byte) : Statement (.dec r) := ⟨Nat.le_of_ble_eq_true rfl, Nat.le_of_ble_eq_true rfl⟩
theorem adc (d : Byte) (s : Byte) : Statement (.adc d s) := ⟨Nat.le_of_ble_eq_true rfl, Nat.le_of_ble_eq_true rfl⟩
theorem sbb (d : Byte) (s : Byte) : Statement (.sbb d s) := ⟨Nat.le_of_ble_eq_true rfl, Nat.le_of_ble_eq_true rfl⟩
theorem cmp (d : Byte) (s : Byte) : Statement (.cmp d s) := ⟨Nat.le_of_ble_eq_true rfl, Nat.le_of_ble_eq_true rfl⟩
theorem cmpi (r : Byte) (i32 : Word) : Statement (.cmpi r i32) := ⟨Nat.le_of_ble_eq_true rfl, Nat.le_of_ble_eq_true rfl⟩
theorem and (d : Byte) (s : Byte) : Statement (.and d s) := ⟨Nat.le_of_ble_eq_true rfl, Nat.le_of_ble_eq_true rfl⟩
theorem or (d : Byte) (s : Byte) : Statement (.or d s) := ⟨Nat.le_of_ble_eq_true rfl, Nat.le_of_ble_eq_true rfl⟩
theorem xor (d : Byte) (s : Byte) : Statement (.xor d s) := ⟨Nat.le_of_ble_eq_true rfl, Nat.le_of_ble_eq_true rfl⟩
theorem shl (r : Byte) (i8 : Byte) : Statement (.shl r i8) := ⟨Nat.le_of_ble_eq_true rfl, Nat.le_of_ble_eq_true rfl⟩
theorem shr (r : Byte) (i8 : Byte) : Statement (.shr r i8) := ⟨Nat.le_of_ble_eq_true rfl, Nat.le_of_ble_eq_true rfl⟩
theorem rol (r : Byte) (i8 : Byte) : Statement (.rol r i8) := ⟨Nat.le_of_ble_eq_true rfl, Nat.le_of_ble_eq_true rfl⟩
theorem ror (r : Byte) (i8 : Byte) : Statement (.ror r i8) := ⟨Nat.le_of_ble_eq_true rfl, Nat.le_of_ble_eq_true rfl⟩
theorem jmp (a32 : Word) : Statement (.jmp a32) := ⟨Nat.le_of_ble_eq_true rfl, Nat.le_of_ble_eq_true rfl⟩
theorem jz (a32 : Word) : Statement (.jz a32) := ⟨Nat.le_of_ble_eq_true rfl, Nat.le_of_ble_eq_true rfl⟩
theorem jnz (a32 : Word) : Statement (.jnz a32) := ⟨Nat.le_of_ble_eq_true rfl, Nat.le_of_ble_eq_true rfl⟩
theorem jc (a32 : Word) : Statement (.jc a32) := ⟨Nat.le_of_ble_eq_true rfl, Nat.le_of_ble_eq_true rfl⟩
theorem jnc (a32 : Word) : Statement (.jnc a32) := ⟨Nat.le_of_ble_eq_true rfl, Nat.le_of_ble_eq_true rfl⟩
theorem ja (a32 : Word) : Statement (.ja a32) := ⟨Nat.le_of_ble_eq_true rfl, Nat.le_of_ble_eq_true rfl⟩
theorem jb (a32 : Word) : Statement (.jb a32) := ⟨Nat.le_of_ble_eq_true rfl, Nat.le_of_ble_eq_true rfl⟩
theorem call (a32 : Word) : Statement (.call a32) := ⟨Nat.le_of_ble_eq_true rfl, Nat.le_of_ble_eq_true rfl⟩
theorem ret : Statement (.ret) := ⟨by decide, by decide⟩
theorem loop (a32 : Word) : Statement (.loop a32) := ⟨Nat.le_of_ble_eq_true rfl, Nat.le_of_ble_eq_true rfl⟩
theorem cli : Statement (.cli) := ⟨by decide, by decide⟩
theorem sti : Statement (.sti) := ⟨by decide, by decide⟩
theorem push16 (r : BitVec 3) : Statement (.push16 r) := ⟨Nat.le_of_ble_eq_true rfl, Nat.le_of_ble_eq_true rfl⟩
theorem pop16 (r : BitVec 3) : Statement (.pop16 r) := ⟨Nat.le_of_ble_eq_true rfl, Nat.le_of_ble_eq_true rfl⟩
theorem jcR8 (rel8 : Byte) : Statement (.jcR8 rel8) := ⟨Nat.le_of_ble_eq_true rfl, Nat.le_of_ble_eq_true rfl⟩
theorem jncR8 (rel8 : Byte) : Statement (.jncR8 rel8) := ⟨Nat.le_of_ble_eq_true rfl, Nat.le_of_ble_eq_true rfl⟩
theorem jzR8 (rel8 : Byte) : Statement (.jzR8 rel8) := ⟨Nat.le_of_ble_eq_true rfl, Nat.le_of_ble_eq_true rfl⟩
theorem jnzR8 (rel8 : Byte) : Statement (.jnzR8 rel8) := ⟨Nat.le_of_ble_eq_true rfl, Nat.le_of_ble_eq_true rfl⟩
theorem jaR8 (rel8 : Byte) : Statement (.jaR8 rel8) := ⟨Nat.le_of_ble_eq_true rfl, Nat.le_of_ble_eq_true rfl⟩
theorem jsR8 (rel8 : Byte) : Statement (.jsR8 rel8) := ⟨Nat.le_of_ble_eq_true rfl, Nat.le_of_ble_eq_true rfl⟩
theorem movseg (k : BitVec 3) (r : BitVec 3) : Statement (.movseg k r) := ⟨Nat.le_of_ble_eq_true rfl, Nat.le_of_ble_eq_true rfl⟩
theorem movsb : Statement (.movsb) := ⟨by decide, by decide⟩
theorem cmpsb : Statement (.cmpsb) := ⟨by decide, by decide⟩
theorem mov8 (r : BitVec 3) (i8 : Byte) : Statement (.mov8 r i8) := ⟨Nat.le_of_ble_eq_true rfl, Nat.le_of_ble_eq_true rfl⟩
theorem mov16 (r : BitVec 3) (i16 : Half) : Statement (.mov16 r i16) := ⟨Nat.le_of_ble_eq_true rfl, Nat.le_of_ble_eq_true rfl⟩
theorem ret16Imm (i16 : Half) : Statement (.ret16Imm i16) := ⟨Nat.le_of_ble_eq_true rfl, Nat.le_of_ble_eq_true rfl⟩
theorem ret16 : Statement (.ret16) := ⟨by decide, by decide⟩
theorem int (i8 : Byte) : Statement (.int i8) := ⟨Nat.le_of_ble_eq_true rfl, Nat.le_of_ble_eq_true rfl⟩
theorem loopR8 (rel8 : Byte) : Statement (.loopR8 rel8) := ⟨Nat.le_of_ble_eq_true rfl, Nat.le_of_ble_eq_true rfl⟩
theorem callR16 (rel16 : Half) : Statement (.callR16 rel16) := ⟨Nat.le_of_ble_eq_true rfl, Nat.le_of_ble_eq_true rfl⟩
theorem jmpR16 (rel16 : Half) : Statement (.jmpR16 rel16) := ⟨Nat.le_of_ble_eq_true rfl, Nat.le_of_ble_eq_true rfl⟩
theorem jmpR8 (rel8 : Byte) : Statement (.jmpR8 rel8) := ⟨Nat.le_of_ble_eq_true rfl, Nat.le_of_ble_eq_true rfl⟩
theorem hlt : Statement (.hlt) := ⟨by decide, by decide⟩
theorem cliL : Statement (.cliL) := ⟨by decide, by decide⟩
theorem stiL : Statement (.stiL) := ⟨by decide, by decide⟩
theorem syscall : Statement (.syscall) := ⟨by decide, by decide⟩
theorem sysret : Statement (.sysret) := ⟨by decide, by decide⟩
theorem ud2 : Statement (.ud2) := ⟨by decide, by decide⟩
theorem rdtsc : Statement (.rdtsc) := ⟨by decide, by decide⟩
theorem jaR16 (rel16 : Half) : Statement (.jaR16 rel16) := ⟨Nat.le_of_ble_eq_true rfl, Nat.le_of_ble_eq_true rfl⟩
theorem cpuid : Statement (.cpuid) := ⟨by decide, by decide⟩
theorem popcnt (d : Byte) (s : Byte) : Statement (.popcnt d s) := ⟨Nat.le_of_ble_eq_true rfl, Nat.le_of_ble_eq_true rfl⟩
theorem bsf (d : Byte) (s : Byte) : Statement (.bsf d s) := ⟨Nat.le_of_ble_eq_true rfl, Nat.le_of_ble_eq_true rfl⟩
theorem bsr (d : Byte) (s : Byte) : Statement (.bsr d s) := ⟨Nat.le_of_ble_eq_true rfl, Nat.le_of_ble_eq_true rfl⟩
theorem repMovsb : Statement (.repMovsb) := ⟨by decide, by decide⟩
theorem repCmpsb : Statement (.repCmpsb) := ⟨by decide, by decide⟩
theorem not (r : Byte) : Statement (.not r) := ⟨Nat.le_of_ble_eq_true rfl, Nat.le_of_ble_eq_true rfl⟩
theorem neg (r : Byte) : Statement (.neg r) := ⟨Nat.le_of_ble_eq_true rfl, Nat.le_of_ble_eq_true rfl⟩
theorem mul (r : Byte) : Statement (.mul r) := ⟨Nat.le_of_ble_eq_true rfl, Nat.le_of_ble_eq_true rfl⟩
theorem imul (r : Byte) : Statement (.imul r) := ⟨Nat.le_of_ble_eq_true rfl, Nat.le_of_ble_eq_true rfl⟩
theorem div (r : Byte) : Statement (.div r) := ⟨Nat.le_of_ble_eq_true rfl, Nat.le_of_ble_eq_true rfl⟩
theorem idiv (r : Byte) : Statement (.idiv r) := ⟨Nat.le_of_ble_eq_true rfl, Nat.le_of_ble_eq_true rfl⟩

end Sys2Proof.Laws.EncodedLength
end

