-- ==== Sys2Proof/Laws/Step.lean ====
section
/-!
SUPPORT. What a step can do, said once (R140, R434 to R438), and the run loop's end of a cycle.
-/

namespace Sys2Proof.Machine

/-- A running machine with pc in range and no shutdown at a batch start runs a cycle. -/
theorem State.gate_cycle {s : State} (hr : s.run = .running) (hb : ¬(s.bpos = 0 ∧ s.shutdownRequested = true))
    (hp : inRange s.pc = true) : s.gate = .cycle := by
  unfold State.gate
  rw [hr]
  simp only [if_neg hb, hp, if_true]

/-- Everything a step that answers a next state can be: a stutter of a stopped machine, a stop, a decode error, or an
instruction. -/
theorem step_cases {s t : State} (h : step s = .next t) :
    (s.run = .stopped ∧ t = s) ∨
    (s.run = .running ∧ s.bpos = 0 ∧ s.shutdownRequested = true ∧ t = s.stop) ∨
    (s.run = .running ∧ inRange s.pc = false ∧ t = s.stopOutOfRange) ∨
    (s.run = .running ∧ inRange s.pc = true ∧ ∃ e, s.decodeAtPc = .error e ∧
      t = ((s.beginCycle e.bytes.length).takeDecodeError e.bytes).endCycle) ∨
    (s.run = .running ∧ inRange s.pc = true ∧ ∃ i u, s.decodeAtPc = .instr i ∧
      exec i (s.beginCycle i.length) = .next u ∧ t = u.endCycle) := by
  cases hr : s.run with
  | stopped =>
    have hg : s.gate = .final := by simp [State.gate, hr]
    rw [step, hg] at h
    exact .inl ⟨rfl, (Host.Outcome.next.inj h).symm⟩
  | running =>
    by_cases hb : s.bpos = 0 ∧ s.shutdownRequested = true
    · have hg : s.gate = .shutdown := by simp [State.gate, hr, hb]
      rw [step, hg] at h
      exact .inr (.inl ⟨rfl, hb.1, hb.2, (Host.Outcome.next.inj h).symm⟩)
    · cases hp : inRange s.pc with
      | false =>
        have hg : s.gate = .outOfRange := by
          unfold State.gate
          rw [hr]
          simp only [if_neg hb, hp]
          rfl
        rw [step, hg] at h
        exact .inr (.inr (.inl ⟨rfl, rfl, (Host.Outcome.next.inj h).symm⟩))
      | true =>
        rw [step, State.gate_cycle hr hb hp] at h
        simp only at h
        split at h
        · rename_i e he
          exact .inr (.inr (.inr (.inl ⟨rfl, rfl, e, he, (Host.Outcome.next.inj h).symm⟩)))
        · rename_i i hi
          split at h
          · rename_i u hu
            exact .inr (.inr (.inr (.inr ⟨rfl, rfl, i, u, hi, hu, (Host.Outcome.next.inj h).symm⟩)))
          · cases h
          · cases h

/-- All a decode error does (R137, R383). -/
theorem noStore_takeDecodeError (s : State) (bytes : List Byte) :
    (s.takeDecodeError bytes).pc = s.pc + BitVec.ofNat 32 bytes.length ∧
      NoStore s (s.takeDecodeError bytes) [] [] [.diag (.decodeError s.pc bytes)] :=
  ⟨rfl, ((NoStore.refl s [] []).emit _).setPc _⟩

/-- All the start of a cycle does (R50, R112, R140). -/
theorem State.beginCycle_eq (s : State) (n : Nat) :
    s.beginCycle n = { s with lwa := none, events := s.events ++ fetchReports s.pc n } := rfl

/-- Everything the end of a cycle can be (R435, R436, R438). -/
theorem State.endCycle_cases (s : State) :
    (inRange s.pc = true ∧ s.bpos + 1 < 1000 ∧
      s.endCycle = { s with cycles := s.cycles + 1#64, bpos := s.bpos + 1 }) ∨
    (inRange s.pc = true ∧ ¬s.bpos + 1 < 1000 ∧
      s.endCycle = { s with cycles := s.cycles + 1#64, bpos := 0, batch := s.batch + 1, events := s.events ++ [.render s.batch] }) ∨
    (inRange s.pc = false ∧
      s.endCycle = { s with cycles := s.cycles + 1#64, run := .stopped, events := s.events ++ [.diag (.ipOutOfRange s.pc)] }) := by
  have hif : s.endCycle = if inRange s.pc = true then s.countCycle.nextCycle else s.countCycle.stopOutOfRange := rfl
  have hn : s.countCycle.nextCycle = if s.bpos + 1 < 1000 then { s with cycles := s.cycles + 1#64, bpos := s.bpos + 1 }
      else { s with cycles := s.cycles + 1#64, bpos := 0, batch := s.batch + 1, events := s.events ++ [.render s.batch] } :=
    rfl
  by_cases hp : inRange s.pc = true
  · rw [if_pos hp, hn] at hif
    by_cases hb : s.bpos + 1 < 1000
    · exact .inl ⟨hp, hb, by rw [hif, if_pos hb]⟩
    · exact .inr (.inl ⟨hp, hb, by rw [hif, if_neg hb]⟩)
  · rw [if_neg hp] at hif
    exact .inr (.inr ⟨by simpa using hp, hif⟩)

end Sys2Proof.Machine
end

