-- ==== Sys2Proof/Tests/Slice0.lean ====
section
/-!
SUPPORT. Tests. The words are written out from the encoding of 30_encoding.md (R113, R125 to R129). The theorems named
`test_V_…` are vectors of 95_test_vectors.md, one step each, with the results that file states. The theorems named
`witness_…` show, for each statement with hypotheses, a concrete state and operands that meet them together, at boundary
values where the hypotheses or clauses have any.
-/

namespace Sys2Proof.Tests

open Sys2Proof Sys2Proof.Machine

-- One theorem after another: the kernel checks of many at once ask for more threads than the sandbox gives.
set_option Elab.async false

/-! ## Well-formedness -/

theorem test_movseg_field_6_is_ill_formed : Instr.wellFormed (.movseg 6#3 0#3) = false := by decide
theorem test_movseg_field_7_is_ill_formed : Instr.wellFormed (.movseg 7#3 0#3) = false := by decide
theorem test_movseg_field_5_is_well_formed : Instr.wellFormed (.movseg 5#3 7#3) = true := by decide
theorem test_invalid_register_index_is_well_formed : Instr.wellFormed (.mov 8#8 255#8) = true := by decide

/-! ## Words -/

/-- Words of the data movement instructions, byte by byte, with what they stand for. -/
def dataMovementWords : List (List Byte × Instr) :=
  [([0x01, 0x05, 0x03], .mov 5 3),
   ([0x02, 0x09, 0x78, 0x56, 0x34, 0x12], .movi 9 0x12345678),
   ([0x03, 0x09, 0x78, 0x56, 0x34, 0x12], .lda 9 0x12345678),
   ([0x04, 0x09, 0x78, 0x56, 0x34, 0x12], .sta 9 0x12345678),
   ([0x05, 0x05, 0x03], .ldr 5 3),
   ([0x06, 0x05, 0x03], .str 5 3),
   ([0x07, 0x05, 0x03], .ldzb 5 3),
   ([0x08, 0x05, 0x03], .ldsb 5 3),
   ([0x09, 0x05, 0x03], .strb 5 3),
   ([0x0A, 0x05], .push 0x05),
   ([0x0B, 0x05], .pop 0x05),
   ([0x56], .push16 6),
   ([0x5E], .pop16 6),
   ([0xB6, 0x0E], .mov8 6 0x0E),
   ([0xBE, 0x00, 0x7E], .mov16 6 0x7E00)]

/-- Words of the arithmetic instructions, byte by byte, with what they stand for. -/
def arithmeticWords : List (List Byte × Instr) :=
  [([0x10, 0x05, 0x03], .add 5 3),
   ([0x11, 0x09, 0x78, 0x56, 0x34, 0x12], .addi 9 0x12345678),
   ([0x12, 0x05, 0x03], .sub 5 3),
   ([0x13, 0x09, 0x78, 0x56, 0x34, 0x12], .subi 9 0x12345678),
   ([0x14, 0x05], .inc 0x05),
   ([0x15, 0x05], .dec 0x05),
   ([0x16, 0x05, 0x03], .adc 5 3),
   ([0x17, 0x05, 0x03], .sbb 5 3),
   ([0xF7, 0x03, 0x03], .neg 0x03),
   ([0xF7, 0x04, 0x03], .mul 0x03),
   ([0xF7, 0x05, 0x03], .imul 0x03),
   ([0xF7, 0x06, 0x03], .div 0x03),
   ([0xF7, 0x07, 0x03], .idiv 0x03)]

/-- Words of the control instructions, byte by byte, with what they stand for. -/
def controlWords : List (List Byte × Instr) :=
  [([0x18, 0x05, 0x03], .cmp 5 3),
   ([0x19, 0x09, 0x78, 0x56, 0x34, 0x12], .cmpi 9 0x12345678),
   ([0x30, 0x10, 0x7C, 0x0B, 0x80], .jmp 0x800B7C10),
   ([0x31, 0x10, 0x7C, 0x0B, 0x80], .jz 0x800B7C10),
   ([0x32, 0x10, 0x7C, 0x0B, 0x80], .jnz 0x800B7C10),
   ([0x33, 0x10, 0x7C, 0x0B, 0x80], .jc 0x800B7C10),
   ([0x34, 0x10, 0x7C, 0x0B, 0x80], .jnc 0x800B7C10),
   ([0x35, 0x10, 0x7C, 0x0B, 0x80], .ja 0x800B7C10),
   ([0x36, 0x10, 0x7C, 0x0B, 0x80], .jb 0x800B7C10),
   ([0x37, 0x10, 0x7C, 0x0B, 0x80], .call 0x800B7C10),
   ([0x38], .ret),
   ([0x39, 0x10, 0x7C, 0x0B, 0x80], .loop 0x800B7C10),
   ([0x72, 0xFE], .jcR8 0xFE),
   ([0x73, 0xFE], .jncR8 0xFE),
   ([0x74, 0xFE], .jzR8 0xFE),
   ([0x75, 0xFE], .jnzR8 0xFE),
   ([0x77, 0xFE], .jaR8 0xFE),
   ([0x78, 0xFE], .jsR8 0xFE),
   ([0xC2, 0xFC, 0x80], .ret16Imm 0x80FC),
   ([0xC3], .ret16),
   ([0xE2, 0xFE], .loopR8 0xFE),
   ([0xE8, 0xFC, 0x80], .callR16 0x80FC),
   ([0xE9, 0xFC, 0x80], .jmpR16 0x80FC),
   ([0xEB, 0xFE], .jmpR8 0xFE),
   ([0x0F, 0x87, 0xFC, 0x80], .jaR16 0x80FC)]

/-- Words of the bitwise instructions, byte by byte, with what they stand for. -/
def bitwiseWords : List (List Byte × Instr) :=
  [([0x20, 0x05, 0x03], .and 5 3),
   ([0x21, 0x05, 0x03], .or 5 3),
   ([0x22, 0x05, 0x03], .xor 5 3),
   ([0x23, 0x05, 0x1F], .shl 5 0x1F),
   ([0x24, 0x05, 0x1F], .shr 5 0x1F),
   ([0x25, 0x05, 0x1F], .rol 5 0x1F),
   ([0x26, 0x05, 0x1F], .ror 5 0x1F),
   ([0x0F, 0xB8, 0x05, 0x03], .popcnt 5 3),
   ([0x0F, 0xBC, 0x05, 0x03], .bsf 5 3),
   ([0x0F, 0xBD, 0x05, 0x03], .bsr 5 3),
   ([0xF7, 0x02, 0x03], .not 0x03)]

/-- Words of the system instructions, byte by byte, with what they stand for. -/
def systemWords : List (List Byte × Instr) :=
  [([0x3C], .cli),
   ([0x3D], .sti),
   ([0x8E, 0x2B], .movseg 5 3),
   ([0xCD, 0x21], .int 0x21),
   ([0xF4], .hlt),
   ([0xFA], .cliL),
   ([0xFB], .stiL),
   ([0x0F, 0x05], .syscall),
   ([0x0F, 0x07], .sysret),
   ([0x0F, 0x0B], .ud2),
   ([0x0F, 0x31], .rdtsc),
   ([0x0F, 0xA2], .cpuid)]

/-- Words of the string instructions, byte by byte, with what they stand for. -/
def stringsWords : List (List Byte × Instr) :=
  [([0xA4], .movsb),
   ([0xA6], .cmpsb),
   ([0xF3, 0xA4], .repMovsb),
   ([0xF3, 0xA6], .repCmpsb)]

theorem test_data_movement_words_decode : ∀ p ∈ dataMovementWords, decode p.1 = .instr p.2 := by decide +kernel
theorem test_data_movement_words_encode : ∀ p ∈ dataMovementWords, encode p.2 = p.1 := by decide +kernel
theorem test_arithmetic_words_decode : ∀ p ∈ arithmeticWords, decode p.1 = .instr p.2 := by decide +kernel
theorem test_arithmetic_words_encode : ∀ p ∈ arithmeticWords, encode p.2 = p.1 := by decide +kernel
theorem test_control_words_decode : ∀ p ∈ controlWords, decode p.1 = .instr p.2 := by decide +kernel
theorem test_control_words_encode : ∀ p ∈ controlWords, encode p.2 = p.1 := by decide +kernel
theorem test_bitwise_words_decode : ∀ p ∈ bitwiseWords, decode p.1 = .instr p.2 := by decide +kernel
theorem test_bitwise_words_encode : ∀ p ∈ bitwiseWords, encode p.2 = p.1 := by decide +kernel
theorem test_system_words_decode : ∀ p ∈ systemWords, decode p.1 = .instr p.2 := by decide +kernel
theorem test_system_words_encode : ∀ p ∈ systemWords, encode p.2 = p.1 := by decide +kernel
theorem test_strings_words_decode : ∀ p ∈ stringsWords, decode p.1 = .instr p.2 := by decide +kernel
theorem test_strings_words_encode : ∀ p ∈ stringsWords, encode p.2 = p.1 := by decide +kernel

/-- MOVSEG ignores bits 7 and 6 of its byte (R129). -/
theorem test_movseg_ignored_bits : decode [0x8E, 0xEB] = .instr (.movseg 5 3) := by decide +kernel

/-- Vectors V-E1 to V-E11. -/
theorem test_decode_errors :
    [[0x00], [0x0C], [0xFF], [0x0F, 0xFF], [0x0F, 0x0F], [0xF3, 0x90], [0xF3, 0xF3, 0xA4], [0xF7, 0x00, 0x05],
      [0xF7, 0x08, 0x00], [0x8E, 0xF0], [0x8E, 0x38]].map decode =
    [.error (.primary 0x00), .error (.primary 0x0C), .error (.primary 0xFF), .error (.twoByte 0xFF),
      .error (.twoByte 0x0F), .error (.repeatPrefix 0x90), .error (.repeatPrefix 0xF3), .error (.group 0x00),
      .error (.group 0x08), .error (.segmentLoad 0xF0), .error (.segmentLoad 0x38)] := by decide +kernel

/-- The opcode table's words of MOV, BSR and DIV, with every other bit 0. -/
theorem test_table_words :
    decodeTableWord 8 0x01 = some (.mov 0 0) ∧ decodeTableWord 16 0x0FBD = some (.bsr 0 0) ∧
      decodeTableWord 16 0xF706 = some (.div 0) ∧ decodeTableWord 16 0xF708 = none := by decide +kernel

/-- The placed word is what the next step runs. -/
theorem test_placed_word : (State.reset.withFetchWord 16 0xF706).decodeAtPc = .instr (.div 0) := by decide +kernel

/-! ## Small states -/

/-- The default start state of 95_test_vectors.md section 0, with the CPUID words of vector V-Y16. -/
def start : State :=
  State.created { Setup.default with
    syscallHandler := 0x1000#32, cpuidListed := [(0#32, { w0 := 1#32, w1 := 0x6D767878#32, w2 := 0#32, w3 := 0#32 })] }

/-- A start state with registers, flags, pc and bytes of memory given. -/
def given (regs : List (Fin 8 × Word)) (flags pc : Word) (mem : List (Word × List Byte)) : State :=
  regs.foldl (fun s p => s.setReg p.1 p.2)
    { start with flags := flags, pc := pc, mem := mem.foldl (fun m p => Memory.load m p.1.toNat p.2) [] }

/-- One step, with the bytes of an instruction at pc. -/
def ran (bytes : List Byte) (s : State) : State :=
  match step { s with mem := Memory.load s.mem s.pc.toNat bytes } with
  | .next t => t
  | _ => s

/-- Some registers, flags and pc. -/
def view (rs : List (Fin 8)) (t : State) : List Word × Word × Word := (rs.map t.reg, t.flags, t.pc)

/-- The `n` bytes from `a` up, and lwa. -/
def stored (a : Word) (n : Nat) (t : State) : List Byte × Option Word := (t.fetchBytes a n, t.lwa)

/-- The event of the text window's hook, with the context 0 that the model gives it (log 22). -/
def shown (a : Word) (b : Byte) : Event := .hook (Hook.textWindow 0xB8000#32 80 25) 0 a b

/-! ## Vectors -/

theorem test_V_E5 :
    let t := ran [0x0F, 0x0F] (given [] 0 0x7C00 [])
    view [] t = ([], 0x0, 0x7C02) ∧ t.events = [.diag (.decodeError 0x7C00 [0x0F, 0x0F])] := by decide +kernel
theorem test_V_E13 :
    let t := ran [0x01, 0x08, 0x00] (given [(0, 0x5)] 0 0x7C00 [])
    view [0] t = ([0x5], 0x0, 0x7C03) := by decide +kernel
theorem test_V_E17 :
    let t := ran [0xB0] (given [(0, 0x12345678)] 0 0xFFFFF [])
    view [0] t = ([0x12345600], 0x0, 0x100001) ∧
    t.events = [.diag (.boundsRead 0x100000), .diag (.ipOutOfRange 0x100001)] := by decide +kernel
theorem test_V_E18 :
    let t := ran [0x30, 0x00, 0x00, 0x00, 0x00] (given [] 0 0xFFFFB [])
    view [] t = ([], 0x0, 0x0) := by decide +kernel
theorem test_V_D1 :
    let t := ran [0x01, 0x02, 0x03] (given [(3, 0x12345678)] 0 0x7C00 [])
    view [2] t = ([0x12345678], 0x0, 0x7C03) := by decide +kernel
theorem test_V_D2 :
    let t := ran [0x01, 0x03, 0x03] (given [(3, 0x12345678)] 0 0x7C00 [])
    view [3] t = ([0x12345678], 0x0, 0x7C03) := by decide +kernel
theorem test_V_D3 :
    let t := ran [0x02, 0x00, 0x78, 0x56, 0x34, 0x12] (given [] 0 0x7C00 [])
    view [0] t = ([0x12345678], 0x0, 0x7C06) := by decide +kernel
theorem test_V_M1 :
    let t := ran [0x03, 0x00, 0xFE, 0xFF, 0x0F, 0x00] (given [] 0 0x7C00 [(0xFFFFE, [0xAA, 0xBB])])
    view [0] t = ([0xBBAA], 0x0, 0x7C06) ∧ t.events = [.diag (.boundsRead 0xFFFFE)] := by decide +kernel
theorem test_V_D4 :
    let t := ran [0x03, 0x01, 0x00, 0x10, 0x00, 0x00] (given [] 0 0x7C00 [(0x1000, [0x44, 0x33, 0x22, 0x11])])
    view [1] t = ([0x11223344], 0x0, 0x7C06) := by decide +kernel
theorem test_V_M2 :
    let t := ran [0x04, 0x00, 0xFE, 0xFF, 0x0F, 0x00] (given [(0, 0x11223344)] 0 0x7C00 [])
    view [0] t = ([0x11223344], 0x0, 0x7C06) ∧
    stored 0xFFFFE 2 t = ([0x44, 0x33], some 0xFFFFE) ∧
    t.events = [.diag (.boundsWrite 0xFFFFE)] := by decide +kernel
theorem test_V_D5 :
    let t := ran [0x04, 0x02, 0x00, 0x20, 0x00, 0x00] (given [(2, 0xAABBCCDD)] 0 0x7C00 [])
    view [2] t = ([0xAABBCCDD], 0x0, 0x7C06) ∧
    stored 0x2000 4 t = ([0xDD, 0xCC, 0xBB, 0xAA], some 0x2000) := by decide +kernel
theorem test_V_D6 :
    let t := ran [0x05, 0x03, 0x03] (given [(3, 0x1000)] 0 0x7C00 [(0x1000, [0x01, 0x00, 0x00, 0x80])])
    view [3] t = ([0x80000001], 0x0, 0x7C03) := by decide +kernel
theorem test_V_D7 :
    let t := ran [0x06, 0x04, 0x04] (given [(4, 0x3000)] 0 0x7C00 [])
    view [4] t = ([0x3000], 0x0, 0x7C03) ∧
    stored 0x3000 4 t = ([0x00, 0x30, 0x00, 0x00], some 0x3000) := by decide +kernel
theorem test_V_D8 :
    let t := ran [0x07, 0x00, 0x01] (given [(1, 0x1000)] 0 0x7C00 [(0x1000, [0xFF])])
    view [0] t = ([0xFF], 0x0, 0x7C03) := by decide +kernel
theorem test_V_M6 :
    let t := ran [0x07, 0x00, 0x01] (given [(1, 0x2001)] 0 0x7C00 [(0x2000, [0xDD, 0xCC, 0xBB, 0xAA])])
    view [0] t = ([0xCC], 0x0, 0x7C03) := by decide +kernel
theorem test_V_D9 :
    let t := ran [0x08, 0x00, 0x01] (given [(1, 0x1000)] 0 0x7C00 [(0x1000, [0x80])])
    view [0] t = ([0xFFFFFF80], 0x0, 0x7C03) := by decide +kernel
theorem test_V_D11 :
    let t := ran [0x08, 0x00, 0x01] (given [(0, 0x55), (1, 0x100000)] 0 0x7C00 [])
    view [0] t = ([0x0], 0x0, 0x7C03) ∧ t.events = [.diag (.boundsRead 0x100000)] := by decide +kernel
theorem test_V_D12 :
    let t := ran [0x09, 0x03, 0x00] (given [(0, 0x141), (3, 0xB8000)] 0 0x7C00 [])
    view [0, 3] t = ([0x141, 0xB8000], 0x0, 0x7C03) ∧
    stored 0xB8000 1 t = ([0x41], some 0xB8000) ∧
    t.events = [shown 0xB8000 0x41] := by decide +kernel
theorem test_V_M5 :
    let t := ran [0x09, 0x01, 0x00] (given [(0, 0x41), (1, 0x100000)] 0 0x7C00 [])
    view [0, 1] t = ([0x41, 0x100000], 0x0, 0x7C03) ∧
    t.events = [.diag (.boundsWrite 0x100000)] := by decide +kernel
theorem test_V_D14 :
    let t := ran [0x0A, 0x07] (given [] 0 0x7C00 [])
    view [7] t = ([0x7BFC], 0x0, 0x7C02) ∧
    stored 0x7BFC 4 t = ([0x00, 0x7C, 0x00, 0x00], some 0x7BFC) := by decide +kernel
theorem test_V_D15 :
    let t := ran [0x0A, 0x00] (given [(0, 0xCAFEBABE), (7, 0x2)] 0 0x7C00 [])
    view [7] t = ([0xFFFFFFFE], 0x0, 0x7C02) ∧
    stored 0x0 2 t = ([0xFE, 0xCA], some 0xFFFFFFFE) ∧
    t.events = [.diag (.boundsWrite 0xFFFFFFFE)] := by decide +kernel
theorem test_V_D16 :
    let t := ran [0x0B, 0x01] (given [(7, 0x7BFC)] 0 0x7C00 [(0x7BFC, [0x05, 0x00, 0x00, 0x00])])
    view [1, 7] t = ([0x5, 0x7C00], 0x0, 0x7C02) := by decide +kernel
theorem test_V_D17 :
    let t := ran [0x0B, 0x07] (given [(7, 0x7BFC)] 0 0x7C00 [(0x7BFC, [0x00, 0x90, 0x00, 0x00])])
    view [7] t = ([0x9000], 0x0, 0x7C02) := by decide +kernel
theorem test_V_D18 :
    let t := ran [0xB4, 0x0E] (given [(4, 0x12345678)] 0 0x7C00 [])
    view [4] t = ([0x1234560E], 0x0, 0x7C02) := by decide +kernel
theorem test_V_D19 :
    let t := ran [0xBB, 0x00, 0x7E] (given [(3, 0xFFFFFFFF)] 0 0x7C00 [])
    view [3] t = ([0xFFFF7E00], 0x0, 0x7C03) := by decide +kernel
theorem test_V_D20 :
    let t := ran [0x52] (given [(2, 0xABCD1234)] 0 0x7C00 [])
    view [7] t = ([0x7BFE], 0x0, 0x7C01) ∧ stored 0x7BFE 2 t = ([0x34, 0x12], some 0x7BFE) := by decide +kernel
theorem test_V_D21 :
    let t := ran [0x57] (given [] 0 0x7C00 [])
    view [7] t = ([0x7BFE], 0x0, 0x7C01) ∧ stored 0x7BFE 2 t = ([0x00, 0x7C], some 0x7BFE) := by decide +kernel
theorem test_V_D22 :
    let t := ran [0x59] (given [(1, 0xFFFFFFFF), (7, 0x7BFE)] 0 0x7C00 [(0x7BFE, [0x34, 0x12])])
    view [1, 7] t = ([0xFFFF1234, 0x7C00], 0x0, 0x7C01) := by decide +kernel
theorem test_V_D23 :
    let t := ran [0x5F] (given [(7, 0x1FFFE)] 0 0x7C00 [(0x1FFFE, [0x34, 0x12])])
    view [7] t = ([0x21234], 0x0, 0x7C01) := by decide +kernel
theorem test_V_A2 :
    let t := ran [0x10, 0x00, 0x01] (given [(0, 0xFFFFFFFF), (1, 0x1)] 0x2 0x7C00 [])
    view [0] t = ([0x0], 0x3, 0x7C03) := by decide +kernel
theorem test_V_A3 :
    let t := ran [0x10, 0x02, 0x02] (given [(2, 0x40000000)] 0 0x7C00 [])
    view [2] t = ([0x80000000], 0x0, 0x7C03) := by decide +kernel
theorem test_V_A4 :
    let t := ran [0x11, 0x02, 0xF6, 0xFF, 0xFF, 0xFF] (given [(2, 0xA)] 0 0x7C00 [])
    view [2] t = ([0x0], 0x1, 0x7C06) := by decide +kernel
theorem test_V_A5 :
    let t := ran [0x12, 0x00, 0x01] (given [(0, 0x5), (1, 0x7)] 0 0x7C00 [])
    view [0] t = ([0xFFFFFFFE], 0x0, 0x7C03) := by decide +kernel
theorem test_V_A6 :
    let t := ran [0x12, 0x03, 0x03] (given [(3, 0x1234)] 0 0x7C00 [])
    view [3] t = ([0x0], 0x1, 0x7C03) := by decide +kernel
theorem test_V_A7 :
    let t := ran [0x13, 0x07, 0x10, 0x00, 0x00, 0x00] (given [] 0 0x7C00 [])
    view [7] t = ([0x7BF0], 0x0, 0x7C06) := by decide +kernel
theorem test_V_A8 :
    let t := ran [0x14, 0x05] (given [(5, 0xFFFFFFFF)] 0 0x7C00 [])
    view [5] t = ([0x0], 0x1, 0x7C02) := by decide +kernel
theorem test_V_A9 :
    let t := ran [0x15, 0x02] (given [(2, 0x0)] 0x1 0x7C00 [])
    view [2] t = ([0xFFFFFFFF], 0x0, 0x7C02) := by decide +kernel
theorem test_V_A10 :
    let t := ran [0x15, 0x02] (given [(2, 0x1)] 0 0x7C00 [])
    view [2] t = ([0x0], 0x1, 0x7C02) := by decide +kernel
theorem test_V_A11 :
    let t := ran [0x16, 0x00, 0x01] (given [(0, 0xFFFFFFFF), (1, 0x0)] 0x2 0x7C00 [])
    view [0] t = ([0x0], 0x3, 0x7C03) := by decide +kernel
theorem test_V_A12 :
    let t := ran [0x16, 0x00, 0x01] (given [(0, 0xFFFFFFFF), (1, 0xFFFFFFFF)] 0x2 0x7C00 [])
    view [0] t = ([0xFFFFFFFF], 0x2, 0x7C03) := by decide +kernel
theorem test_V_A14 :
    let t := ran [0x17, 0x00, 0x01] (given [(0, 0x5), (1, 0x3)] 0x2 0x7C00 [])
    view [0] t = ([0x1], 0x0, 0x7C03) := by decide +kernel
theorem test_V_A16 :
    let t := ran [0x17, 0x00, 0x01] (given [(0, 0x0), (1, 0xFFFFFFFF)] 0x2 0x7C00 [])
    view [0, 1] t = ([0x0, 0xFFFFFFFF], 0x3, 0x7C03) := by decide +kernel
theorem test_V_A18 :
    let t := ran [0xF7, 0x03, 0x01] (given [(1, 0x80000000)] 0 0x7C00 [])
    view [1] t = ([0x80000000], 0x0, 0x7C03) := by decide +kernel
theorem test_V_A19 :
    let t := ran [0xF7, 0x03, 0x01] (given [(1, 0x0)] 0 0x7C00 [])
    view [1] t = ([0x0], 0x1, 0x7C03) := by decide +kernel
theorem test_V_A20 :
    let t := ran [0xF7, 0x04, 0x03] (given [(0, 0xFFFFFFFF), (3, 0x2)] 0 0x7C00 [])
    view [0, 1] t = ([0xFFFFFFFE, 0x1], 0x0, 0x7C03) := by decide +kernel
theorem test_V_A22 :
    let t := ran [0xF7, 0x04, 0x00] (given [(0, 0x10000)] 0 0x7C00 [])
    view [0, 1] t = ([0x0, 0x1], 0x1, 0x7C03) := by decide +kernel
theorem test_V_A23 :
    let t := ran [0xF7, 0x05, 0x03] (given [(0, 0xFFFFFFFF), (3, 0x2)] 0 0x7C00 [])
    view [0, 1] t = ([0xFFFFFFFE, 0xFFFFFFFF], 0x0, 0x7C03) := by decide +kernel
theorem test_V_A24 :
    let t := ran [0xF7, 0x05, 0x03] (given [(0, 0x80000000), (3, 0x80000000)] 0 0x7C00 [])
    view [0, 1] t = ([0x0, 0x40000000], 0x1, 0x7C03) := by decide +kernel
theorem test_V_A26 :
    let t := ran [0xF7, 0x06, 0x03] (given [(0, 0x7), (1, 0x9), (3, 0x0)] 0x2 0x7C00 [])
    view [0, 1, 3] t = ([0x7, 0x9, 0x0], 0x2, 0x7C03) ∧ t.events = [.diag (.divZero 0x7C00)] := by decide +kernel
theorem test_V_A28 :
    let t := ran [0xF7, 0x06, 0x01] (given [(0, 0xA), (1, 0x3)] 0 0x7C00 [])
    view [0, 1] t = ([0x3, 0x1], 0x0, 0x7C03) := by decide +kernel
theorem test_V_A29 :
    let t := ran [0xF7, 0x07, 0x03] (given [(0, 0xFFFFFFF9), (1, 0xFFFFFFFF), (3, 0x2)] 0 0x7C00 [])
    view [0] t = ([0xFFFFFFFD], 0x0, 0x7C03) := by decide +kernel
theorem test_V_A31 :
    let t := ran [0xF7, 0x07, 0x03] (given [(0, 0x80000000), (1, 0xFFFFFFFF), (3, 0xFFFFFFFF)] 0 0x7C00 [])
    view [1, 0] t = ([0x0, 0x80000000], 0x0, 0x7C03) := by decide +kernel
theorem test_V_B1 :
    let t := ran [0x20, 0x00, 0x01] (given [(0, 0xF0F0), (1, 0xF0F)] 0 0x7C00 [])
    view [0] t = ([0x0], 0x1, 0x7C03) := by decide +kernel
theorem test_V_B2 :
    let t := ran [0x20, 0x03, 0x03] (given [(3, 0x100)] 0x1 0x7C00 [])
    view [3] t = ([0x100], 0x0, 0x7C03) := by decide +kernel
theorem test_V_B3 :
    let t := ran [0x21, 0x00, 0x01] (given [(0, 0xF000), (1, 0xF)] 0 0x7C00 [])
    view [0] t = ([0xF00F], 0x0, 0x7C03) := by decide +kernel
theorem test_V_B4 :
    let t := ran [0x21, 0x00, 0x01] (given [] 0x2 0x7C00 [])
    view [] t = ([], 0x3, 0x7C03) := by decide +kernel
theorem test_V_B5 :
    let t := ran [0x22, 0x02, 0x02] (given [(2, 0x1234)] 0x2 0x7C00 [])
    view [2] t = ([0x0], 0x3, 0x7C03) := by decide +kernel
theorem test_V_B6 :
    let t := ran [0xF7, 0x02, 0x04] (given [(4, 0xFFFFFFFF)] 0 0x7C00 [])
    view [4] t = ([0x0], 0x1, 0x7C03) := by decide +kernel
theorem test_V_B7 :
    let t := ran [0xF7, 0x02, 0x04] (given [(4, 0x0)] 0x1 0x7C00 [])
    view [4] t = ([0xFFFFFFFF], 0x0, 0x7C03) := by decide +kernel
theorem test_V_B10 :
    let t := ran [0x23, 0x00, 0x1F] (given [(0, 0x3)] 0 0x7C00 [])
    view [0] t = ([0x80000000], 0x0, 0x7C03) := by decide +kernel
theorem test_V_B11 :
    let t := ran [0x23, 0x00, 0x20] (given [(0, 0xFFFFFFFF)] 0 0x7C00 [])
    view [0] t = ([0x0], 0x1, 0x7C03) := by decide +kernel
theorem test_V_B13 :
    let t := ran [0x24, 0x00, 0x1F] (given [(0, 0x80000000)] 0 0x7C00 [])
    view [0] t = ([0x1], 0x0, 0x7C03) := by decide +kernel
theorem test_V_B14 :
    let t := ran [0x24, 0x00, 0x21] (given [(0, 0xFFFFFFFF)] 0 0x7C00 [])
    view [0] t = ([0x0], 0x1, 0x7C03) := by decide +kernel
theorem test_V_B15 :
    let t := ran [0x25, 0x01, 0x01] (given [(1, 0x80000001)] 0 0x7C00 [])
    view [1] t = ([0x3], 0x0, 0x7C03) := by decide +kernel
theorem test_V_B17 :
    let t := ran [0x25, 0x01, 0x20] (given [(1, 0x12345678)] 0 0x7C00 [])
    view [1] t = ([0x12345678], 0x0, 0x7C03) := by decide +kernel
theorem test_V_B19 :
    let t := ran [0x26, 0x01, 0x04] (given [(1, 0x12345678)] 0 0x7C00 [])
    view [1] t = ([0x81234567], 0x0, 0x7C03) := by decide +kernel
theorem test_V_B20 :
    let t := ran [0x26, 0x01, 0x00] (given [(1, 0x0)] 0 0x7C00 [])
    view [1] t = ([0x0], 0x1, 0x7C03) := by decide +kernel
theorem test_V_B21 :
    let t := ran [0x0F, 0xBC, 0x00, 0x01] (given [(1, 0x808)] 0 0x7C00 [])
    view [0] t = ([0x3], 0x0, 0x7C04) := by decide +kernel
theorem test_V_B22 :
    let t := ran [0x0F, 0xBC, 0x00, 0x01] (given [(0, 0x77), (1, 0x0)] 0 0x7C00 [])
    view [0, 1] t = ([0x77, 0x0], 0x1, 0x7C04) := by decide +kernel
theorem test_V_B24 :
    let t := ran [0x0F, 0xBD, 0x00, 0x01] (given [(1, 0x808)] 0 0x7C00 [])
    view [0] t = ([0xB], 0x0, 0x7C04) := by decide +kernel
theorem test_V_B26 :
    let t := ran [0x0F, 0xBD, 0x00, 0x01] (given [(0, 0x77), (1, 0x0)] 0 0x7C00 [])
    view [0, 1] t = ([0x77, 0x0], 0x1, 0x7C04) := by decide +kernel
theorem test_V_B28 :
    let t := ran [0x0F, 0xB8, 0x03, 0x02] (given [(2, 0xFFFFFFFF)] 0 0x7C00 [])
    view [3] t = ([0x20], 0x0, 0x7C04) := by decide +kernel
theorem test_V_B29 :
    let t := ran [0x0F, 0xB8, 0x03, 0x02] (given [(2, 0x0), (3, 0x9)] 0 0x7C00 [])
    view [3] t = ([0x0], 0x1, 0x7C04) := by decide +kernel
theorem test_V_C1 :
    let t := ran [0x18, 0x00, 0x01] (given [(0, 0x3), (1, 0x5)] 0 0x7C00 [])
    view [0, 1] t = ([0x3, 0x5], 0x2, 0x7C03) := by decide +kernel
theorem test_V_C4 :
    let t := ran [0x18, 0x00, 0x01] (given [(0, 0xFFFFFFFF), (1, 0x1)] 0 0x7C00 [])
    view [0, 1] t = ([0xFFFFFFFF, 0x1], 0x0, 0x7C03) := by decide +kernel
theorem test_V_C5 :
    let t := ran [0x19, 0x02, 0x0A, 0x00, 0x00, 0x00] (given [(2, 0xA)] 0 0x7C00 [])
    view [2] t = ([0xA], 0x1, 0x7C06) := by decide +kernel
theorem test_V_C6 :
    let t := ran [0x19, 0x02, 0x00, 0x00, 0x00, 0x00] (given [(2, 0xFFFFFFFF)] 0 0x7C00 [])
    view [2] t = ([0xFFFFFFFF], 0x0, 0x7C06) := by decide +kernel
theorem test_V_C7 :
    let t := ran [0x30, 0x00, 0x7D, 0x00, 0x00] (given [] 0 0x7C00 [])
    view [] t = ([], 0x0, 0x7D00) := by decide +kernel
theorem test_V_C8 :
    let t := ran [0x30, 0x00, 0x00, 0x10, 0x00] (given [] 0 0x7C00 [])
    view [] t = ([], 0x0, 0x100000) ∧ t.events = [.diag (.ipOutOfRange 0x100000)] := by decide +kernel
theorem test_V_C9 :
    let t := ran [0x31, 0x10, 0x7C, 0x00, 0x00] (given [] 0x1 0x7C00 [])
    view [] t = ([], 0x1, 0x7C10) := by decide +kernel
theorem test_V_C10 :
    let t := ran [0x31, 0x10, 0x7C, 0x00, 0x00] (given [] 0 0x7C00 [])
    view [] t = ([], 0x0, 0x7C05) := by decide +kernel
theorem test_V_C11 :
    let t := ran [0x32, 0x10, 0x7C, 0x00, 0x00] (given [] 0x1 0x7C00 [])
    view [] t = ([], 0x1, 0x7C05) := by decide +kernel
theorem test_V_C12 :
    let t := ran [0x33, 0x10, 0x7C, 0x00, 0x00] (given [] 0x2 0x7C00 [])
    view [] t = ([], 0x2, 0x7C10) := by decide +kernel
theorem test_V_C13 :
    let t := ran [0x34, 0x10, 0x7C, 0x00, 0x00] (given [] 0x2 0x7C00 [])
    view [] t = ([], 0x2, 0x7C05) := by decide +kernel
theorem test_V_C14 :
    let t := ran [0x35, 0x10, 0x7C, 0x00, 0x00] (given [] 0 0x7C00 [])
    view [] t = ([], 0x0, 0x7C10) := by decide +kernel
theorem test_V_C15 :
    let t := ran [0x35, 0x10, 0x7C, 0x00, 0x00] (given [] 0x1 0x7C00 [])
    view [] t = ([], 0x1, 0x7C05) := by decide +kernel
theorem test_V_C16 :
    let t := ran [0x36, 0x10, 0x7C, 0x00, 0x00] (given [] 0x2 0x7C00 [])
    view [] t = ([], 0x2, 0x7C10) := by decide +kernel
theorem test_V_C17 :
    let t := ran [0x37, 0x20, 0x7C, 0x00, 0x00] (given [] 0 0x7C00 [])
    view [7] t = ([0x7BFC], 0x0, 0x7C20) ∧
    stored 0x7BFC 4 t = ([0x05, 0x7C, 0x00, 0x00], some 0x7BFC) := by decide +kernel
theorem test_V_C46 :
    let t := ran [0x37, 0x00, 0x00, 0x00, 0x00] (given [(7, 0x100002)] 0 0x7C00 [])
    view [7] t = ([0xFFFFE], 0x0, 0x0) ∧
    stored 0xFFFFE 2 t = ([0x05, 0x7C], some 0xFFFFE) ∧
    t.events = [.diag (.boundsWrite 0xFFFFE)] := by decide +kernel
theorem test_V_C18 :
    let t := ran [0x38] (given [(7, 0x7BFC)] 0 0x7C20 [(0x7BFC, [0x05, 0x7C, 0x00, 0x00])])
    view [7] t = ([0x7C00], 0x0, 0x7C05) := by decide +kernel
theorem test_V_C20 :
    let t := ran [0x39, 0x00, 0x7C, 0x00, 0x00] (given [(2, 0x1)] 0 0x7C10 [])
    view [2] t = ([0x0], 0x0, 0x7C15) := by decide +kernel
theorem test_V_C21 :
    let t := ran [0x39, 0x00, 0x7C, 0x00, 0x00] (given [(2, 0x0)] 0 0x7C10 [])
    view [2] t = ([0xFFFFFFFF], 0x0, 0x7C00) := by decide +kernel
theorem test_V_C22 : let t := ran [0xEB, 0xFE] (given [] 0 0x7C10 []); view [] t = ([], 0x0, 0x7C10) := by decide +kernel
theorem test_V_C24 :
    let t := ran [0xEB, 0x80] (given [] 0 0x10 [])
    view [] t = ([], 0x0, 0xFFFFFF92) ∧ t.events = [.diag (.ipOutOfRange 0xFFFFFF92)] := by decide +kernel
theorem test_V_C25 :
    let t := ran [0xE9, 0x00, 0x01] (given [] 0 0x7C00 [])
    view [] t = ([], 0x0, 0x7D03) := by decide +kernel
theorem test_V_C27 : let t := ran [0x72, 0x04] (given [] 0x2 0x7C00 []); view [] t = ([], 0x2, 0x7C06) := by decide +kernel
theorem test_V_C28 : let t := ran [0x72, 0x04] (given [] 0 0x7C00 []); view [] t = ([], 0x0, 0x7C02) := by decide +kernel
theorem test_V_C29 : let t := ran [0x73, 0xFC] (given [] 0 0x7C10 []); view [] t = ([], 0x0, 0x7C0E) := by decide +kernel
theorem test_V_C30 : let t := ran [0x74, 0x80] (given [] 0x1 0x7C80 []); view [] t = ([], 0x1, 0x7C02) := by decide +kernel
theorem test_V_C31 : let t := ran [0x75, 0x7F] (given [] 0 0x7C00 []); view [] t = ([], 0x0, 0x7C81) := by decide +kernel
theorem test_V_C32 : let t := ran [0x77, 0x10] (given [] 0 0x7C00 []); view [] t = ([], 0x0, 0x7C12) := by decide +kernel
theorem test_V_C33 : let t := ran [0x77, 0x10] (given [] 0x2 0x7C00 []); view [] t = ([], 0x2, 0x7C02) := by decide +kernel
theorem test_V_C34 : let t := ran [0x78, 0x02] (given [] 0x80 0x7C00 []); view [] t = ([], 0x80, 0x7C04) := by decide +kernel
theorem test_V_C35 : let t := ran [0x78, 0x02] (given [] 0 0x7C00 []); view [] t = ([], 0x0, 0x7C02) := by decide +kernel
theorem test_V_C36 :
    let t := ran [0x0F, 0x87, 0xFC, 0xFF] (given [] 0 0x7C00 [])
    view [] t = ([], 0x0, 0x7C00) := by decide +kernel
theorem test_V_C37 :
    let t := ran [0x0F, 0x87, 0xFC, 0xFF] (given [] 0x1 0x7C00 [])
    view [] t = ([], 0x1, 0x7C04) := by decide +kernel
theorem test_V_C38 :
    let t := ran [0xE8, 0x1D, 0x00] (given [] 0 0x7C00 [])
    view [7] t = ([0x7BFE], 0x0, 0x7C20) ∧ stored 0x7BFE 2 t = ([0x03, 0x7C], some 0x7BFE) := by decide +kernel
theorem test_V_C39 :
    let t := ran [0xE8, 0x00, 0x00] (given [] 0 0x1FFF0 [])
    view [7] t = ([0x7BFE], 0x0, 0x1FFF3) ∧ stored 0x7BFE 2 t = ([0xF3, 0xFF], some 0x7BFE) := by decide +kernel
theorem test_V_C40 :
    let t := ran [0xC3] (given [(7, 0x7BFE)] 0 0x7C00 [(0x7BFE, [0x03, 0x7C])])
    view [7] t = ([0x7C00], 0x0, 0x7C03) := by decide +kernel
theorem test_V_C41 :
    let t := ran [0xC2, 0x04, 0x00] (given [(7, 0x7BFA)] 0 0x7C00 [(0x7BFA, [0x03, 0x7C])])
    view [7] t = ([0x7C00], 0x0, 0x7C03) := by decide +kernel
theorem test_V_C42 :
    let t := ran [0xC2, 0xFF, 0xFF] (given [(7, 0x7BFA)] 0 0x7C00 [(0x7BFA, [0x03, 0x7C])])
    view [7] t = ([0x17BFB], 0x0, 0x7C03) := by decide +kernel
theorem test_V_C43 :
    let t := ran [0xE2, 0xFE] (given [(2, 0x2)] 0 0x7C00 [])
    view [2] t = ([0x1], 0x0, 0x7C00) := by decide +kernel
theorem test_V_C44 :
    let t := ran [0xE2, 0xFE] (given [(2, 0x1)] 0 0x7C00 [])
    view [2] t = ([0x0], 0x0, 0x7C02) := by decide +kernel
theorem test_V_S1 :
    let t := ran [0xA6] (given [(4, 0x1000), (5, 0x2000)] 0 0x7C00 [(0x1000, [0x41]), (0x2000, [0x42])])
    view [4, 5] t = ([0x1001, 0x2001], 0x2, 0x7C01) := by decide +kernel
theorem test_V_S3 :
    let t := ran [0xA6] (given [(4, 0x1000), (5, 0x100000)] 0 0x7C00 [(0x1000, [0x01])])
    view [4, 5] t = ([0x1001, 0x100001], 0x0, 0x7C01) ∧
    t.events = [.diag (.boundsRead 0x100000)] := by decide +kernel
theorem test_V_S4 :
    let t := ran [0xA4] (given [(4, 0x1000), (5, 0xB8000)] 0 0x7C00 [(0x1000, [0x41])])
    view [4, 5] t = ([0x1001, 0xB8001], 0x0, 0x7C01) ∧
    stored 0xB8000 1 t = ([0x41], some 0xB8000) ∧
    t.events = [shown 0xB8000 0x41] := by decide +kernel
theorem test_V_S6 :
    let t := ran [0xA4] (given [(4, 0xFFFFFFFF), (5, 0x2000)] 0 0x7C00 [])
    view [4, 5] t = ([0x0, 0x2001], 0x0, 0x7C01) ∧
    stored 0x2000 1 t = ([0x00], some 0x2000) ∧
    t.events = [.diag (.boundsRead 0xFFFFFFFF)] := by decide +kernel
theorem test_V_S9 :
    let t := ran [0xF3, 0xA4] (given [(2, 0x4), (4, 0x1000), (5, 0x1001)] 0 0x7C00 [(0x1000, [0xAB, 0x00, 0x00, 0x00, 0x00])])
    view [2, 4, 5] t = ([0x0, 0x1004, 0x1005], 0x0, 0x7C02) ∧
    stored 0x1001 4 t = ([0xAB, 0xAB, 0xAB, 0xAB], some 0x1004) := by decide +kernel
theorem test_V_S10 :
    let t := ran [0xF3, 0xA4] (given [(2, 0x4), (4, 0x1001), (5, 0x1000)] 0 0x7C00 [(0x1000, [0x00, 0x01, 0x02, 0x03, 0x04])])
    view [2, 4, 5] t = ([0x0, 0x1005, 0x1004], 0x0, 0x7C02) ∧
    stored 0x1000 4 t = ([0x01, 0x02, 0x03, 0x04], some 0x1003) := by decide +kernel
theorem test_V_S11 :
    let t := ran [0xF3, 0xA6] (given [(2, 0x4), (4, 0x1000), (5, 0x2000)] 0 0x7C00 
      [(0x1000, [0x41, 0x42, 0x43, 0x44]), (0x2000, [0x41, 0x42, 0x58, 0x44])])
    view [2, 4, 5] t = ([0x1, 0x1003, 0x2003], 0x2, 0x7C02) := by decide +kernel
theorem test_V_S14 :
    let t := ran [0xF3, 0xA6] (given [(2, 0x2), (4, 0x1000), (5, 0x2000)] 0 0x7C00 [(0x1000, [0x41, 0x50]), (0x2000, [0x41, 0x42])])
    view [2, 4, 5] t = ([0x0, 0x1002, 0x2002], 0x0, 0x7C02) := by decide +kernel
theorem test_V_Y2 :
    let t := ran [0xCD, 0x10] { given [(0, 0xE42)] 0 0x7C00 [] with curRow := 0, curCol := 79 }
    view [0] t = ([0xE42], 0x0, 0x7C02) ∧
    stored 0xB809E 2 t = ([0x42, 0x07], some 0xB809F) ∧
    (t.curRow, t.curCol) = (1, 0) ∧
    t.events = [shown 0xB809E 0x42, shown 0xB809F 0x07] := by decide +kernel
theorem test_V_Y3 :
    let t := ran [0xCD, 0x10] { given [(0, 0xE43)] 0 0x7C00 [] with curRow := 24, curCol := 79 }
    view [0] t = ([0xE43], 0x0, 0x7C02) ∧
    stored 0xB8F9E 2 t = ([0x43, 0x07], some 0xB8F9F) ∧
    (t.curRow, t.curCol) = (24, 0) ∧
    t.events = [shown 0xB8F9E 0x43, shown 0xB8F9F 0x07] := by decide +kernel
theorem test_V_Y6 :
    let t := ran [0xF4] (given [] 0 0x7C10 [])
    view [] t = ([], 0x0, 0x7C11) ∧ t.events = [.diag (.halt 0x7C10)] := by decide +kernel
theorem test_V_Y7 :
    let t := ran [0x0F, 0x0B] (given [] 0 0x7C00 [])
    view [] t = ([], 0x0, 0x7C02) ∧ t.events = [.diag (.ud 0x7C00)] := by decide +kernel
theorem test_V_Y8 : let t := ran [0x3C] (given [] 0x207 0x7C00 []); view [] t = ([], 0x203, 0x7C01) := by decide +kernel
theorem test_V_Y9 : let t := ran [0x3D] (given [] 0 0x7C00 []); view [] t = ([], 0x4, 0x7C01) := by decide +kernel
theorem test_V_Y10 : let t := ran [0xFA] (given [] 0x204 0x7C00 []); view [] t = ([], 0x200, 0x7C01) := by decide +kernel
theorem test_V_Y12 : let t := ran [0xFB] (given [] 0x4 0x7C00 []); view [] t = ([], 0x204, 0x7C01) := by decide +kernel
theorem test_V_Y13 :
    let t := ran [0x0F, 0x05] (given [] 0x3 0x7C00 [])
    view [7] t = ([0x7BF8], 0x3, 0x1000) ∧
    stored 0x7BF8 8 t = ([0x02, 0x7C, 0x00, 0x00, 0x03, 0x00, 0x00, 0x00], some 0x7BF8) := by decide +kernel
theorem test_V_Y15 :
    let t := ran [0x0F, 0x07] (given [(7, 0x7BF8)] 0 0x7C00 [(0x7BF8, [0x00, 0x7D, 0x00, 0x00, 0x81, 0x02, 0x00, 0x00])])
    view [7] t = ([0x7C00], 0x281, 0x7D00) := by decide +kernel
theorem test_V_Y16 :
    let t := ran [0x0F, 0xA2] (given [] 0 0x7C00 [])
    view [0, 1] t = ([0x1, 0x6D767878], 0x0, 0x7C02) := by decide +kernel
theorem test_V_Y18 :
    let t := ran [0x0F, 0x31] { given [] 0 0x7C00 [] with cycles := 4886718345 }
    view [0, 1] t = ([0x23456789, 0x1], 0x0, 0x7C02) := by decide +kernel
theorem test_V_Y19 :
    let t := ran [0x8E, 0xC0] (given [(0, 0x12340800)] 0 0x7C00 [])
    view [0] t = ([0x12340800], 0x0, 0x7C02) ∧ t.seg .es = 0x800 := by decide +kernel
theorem test_V_Y21 :
    let t := ran [0x8E, 0xEF] (given [(7, 0x7C00)] 0 0x7C00 [])
    view [7] t = ([0x7C00], 0x0, 0x7C02) ∧ t.seg .gs = 0x7C00 := by decide +kernel

/-! ## Witnesses -/

/-- The bytes of an instruction at pc. -/
def loaded (bytes : List Byte) (s : State) : State := { s with mem := Memory.load s.mem s.pc.toNat bytes }

/-- What StepRunsDecodedInstruction, DecodeErrorIsReported and CycleEndsByTheRunLoop ask of the run loop. -/
def Runs (s : State) : Prop :=
  s.run = .running ∧ ¬(s.bpos = 0 ∧ s.shutdownRequested = true) ∧ inRange s.pc = true

theorem witness_DecodeEncodeRoundTrip : (Instr.movseg 5 7).WellFormed ∧ (Instr.mov 255 8).WellFormed := by
  decide +kernel

theorem witness_DecodedBytesAreTheEncoding :
    decode [0x8E, 0xEF] = .instr (.movseg 5 7) ∧ decode [0x38] = .instr .ret := by decide +kernel

/-- The bytes begin an instruction. -/
def begins (w : List Byte) : Bool :=
  match decode w with
  | .instr _ => true
  | .error _ => false

/-- The first and the last byte of each range of unassigned first bytes, and their assigned neighbours. -/
theorem witness_UnassignedBytesAreDecodeErrors :
    (∀ b ∈ [0x00, 0x0C, 0x0E, 0x1A, 0x1F, 0x27, 0x2F, 0x3A, 0x3B, 0x3E, 0x4F, 0x60, 0x71, 0x76, 0x79, 0x8D, 0x8F, 0xA3,
        0xA5, 0xA7, 0xAF, 0xC0, 0xC1, 0xC4, 0xCC, 0xCE, 0xE1, 0xE3, 0xE7, 0xEA, 0xEC, 0xF2, 0xF5, 0xF6, 0xF8, 0xF9, 0xFC,
        0xFF], decode [b] = .error (.primary b)) ∧
    ∀ b ∈ [0x01, 0x0B, 0x10, 0x19, 0x20, 0x26, 0x30, 0x39, 0x3C, 0x3D, 0x50, 0x5F, 0x72, 0x75, 0x77, 0x78, 0xA4, 0xA6,
        0xB0, 0xBF, 0xC2, 0xC3, 0xCD, 0xE2, 0xE8, 0xE9, 0xEB, 0xF4, 0xFA, 0xFB], begins [b] = true := by
  decide +kernel

/-- The same after the four escape bytes, at both ends of 0xF7's range and at the last selector. -/
theorem witness_UnassignedBytesAreDecodeErrors_second_byte :
    ([[0x0F, 0xBC], [0x0F, 0x05], [0xF3, 0xA4], [0xF3, 0xA6], [0xF7, 0x02], [0xF7, 0x07], [0x8E, 0x2F]].all begins) ∧
    [[0x0F, 0xBB], [0xF3, 0xA5], [0xF7, 0x01], [0xF7, 0x08], [0x8E, 0x30]].map decode =
      [.error (.twoByte 0xBB), .error (.repeatPrefix 0xA5), .error (.group 0x01), .error (.group 0x08),
        .error (.segmentLoad 0x30)] := by
  decide +kernel

/-- The last byte of memory holds RET. -/
theorem witness_StepRunsDecodedInstruction :
    let s := loaded [0x38] (given [] 0 0xFFFFF [])
    Runs s ∧ s.decodeAtPc = .instr .ret := by
  unfold Runs; decide +kernel

/-- The last byte of memory holds an escape byte, so that the second byte is out of range (program P5). -/
theorem witness_DecodeErrorIsReported :
    let s := loaded [0xF7] (given [] 0 0xFFFFF [])
    Runs s ∧ s.decodeAtPc = .error (.group 0) := by
  unfold Runs; decide +kernel

/-- A batch that goes on, its last cycle (R438), and a cycle that leaves pc out of range (vector RL3). -/
theorem witness_CycleEndsByTheRunLoop :
    (let s := loaded [0xEB, 0xFE] { start with bpos := 998 }
     Runs s ∧ (ran [] s).bpos = 999 ∧ (ran [] s).events = []) ∧
    (let s := loaded [0xEB, 0xFE] { start with bpos := 999 }
     Runs s ∧ (ran [] s).bpos = 0 ∧ (ran [] s).batch = 1 ∧ (ran [] s).events = [.render 0]) ∧
    (let s := loaded [0x30, 0x00, 0x00, 0x10, 0x00] { start with bpos := 999 }
     Runs s ∧ (ran [] s).run = .stopped ∧ (ran [] s).events = [.diag (.ipOutOfRange 0x100000)]) := by
  unfold Runs; decide +kernel

/-- A stopped machine, a request found at a batch start (vector RL1), and the first pc out of range. -/
theorem witness_RunLoopStops :
    (start.stop).run = .stopped ∧
    (let s := { start with shutdownAt := some 0 }
     s.run = .running ∧ s.bpos = 0 ∧ s.shutdownRequested = true) ∧
    (let s := { start with pc := 0x100000 }
     s.run = .running ∧ ¬(s.bpos = 0 ∧ s.shutdownRequested = true) ∧ inRange s.pc = false) := by decide +kernel

/-- Every field at the end of its range, and a step that moves all of them. -/
theorem witness_StepKeepsInvariant :
    let s := loaded [0xCD, 0x10] { given [(0, 0xFF)] 0 0xFFFFC [] with curRow := 24, curCol := 79, bpos := 999 }
    Inv s ∧ ∃ t, step s = .next t :=
  ⟨⟨by decide +kernel, by decide +kernel, by decide +kernel, by decide +kernel, fun _ => by decide +kernel⟩,
    ran [] (loaded [0xCD, 0x10] { given [(0, 0xFF)] 0 0xFFFFC [] with curRow := 24, curCol := 79, bpos := 999 }), rfl⟩

/-- What `exec` answers, as a state. -/
def done (i : Instr) (s : State) : State :=
  match exec i s with
  | .next t => t
  | _ => s

theorem witness_InstructionsLeaveRunControl : ∃ t, exec .rdtsc start = .next t := ⟨done .rdtsc start, rfl⟩

/-- An instruction that keeps lwa, and one that writes it. -/
theorem witness_LastWriteAddressIsNotRead :
    (∃ t, exec .sti start = .next t) ∧ ∃ t, exec (.strb 1 0) start = .next t :=
  ⟨⟨done .sti start, rfl⟩, done (.strb 1 0) start, rfl⟩

/-- A reserved bit that SYSRET changes, and bit 9 set before CLI.L. -/
theorem witness_FlagsChangeOnlyByTheirWriters :
    (let s := given [] 0 0x7C00 [(0x7C07, [0x80])]
     exec .sysret s = .next (done .sysret s) ∧ (done .sysret s).flag 31 ≠ s.flag 31) ∧
    (let s := given [] 0x200 0x7C00 []
     exec .cliL s = .next (done .cliL s) ∧ Instr.cliL ≠ .sysret ∧ s.flag 9 = true) :=
  ⟨⟨rfl, by decide +kernel⟩, rfl, by decide, by decide +kernel⟩

theorem witness_RegistersChangeOnlyByTheirWriters :
    exec (.pop 6) start = .next (done (.pop 6) start) ∧ (done (.pop 6) start).reg 7 ≠ start.reg 7 :=
  ⟨rfl, by decide +kernel⟩

/-- An instruction that is no writer of the three, and for each of them a writer. -/
theorem witness_StorageChangesOnlyByItsWriters :
    (exec (.int 0x11) start = .next (done (.int 0x11) start) ∧ (∀ k r, Instr.int 0x11 ≠ .movseg k r) ∧
      Instr.int 0x11 ≠ .int 0x10 ∧ mayStore (.int 0x11) = false) ∧
    (done (.movseg 5 7) start).segs ≠ start.segs ∧ (done (.int 0x10) start).curCol ≠ start.curCol ∧
    mayStore (.int 0x10) = true ∧ (done (.int 0x10) start).lwa ≠ start.lwa :=
  ⟨⟨rfl, fun _ _ h => Instr.noConfusion h, by decide, by decide⟩, by decide +kernel, by decide +kernel, by decide,
    by decide +kernel⟩

/-- No byte, and the six of the longest access, over the end of memory. -/
theorem witness_BusWriteEffect :
    ([] : List Byte).length ≤ 6 ∧ [1, 2, 3, 4, 5, (6 : Byte)].length ≤ 6 ∧
    (start.memWrite 0xFFFFE [1, 2, 3, 4, 5, 6]).readByte 0xFFFFF = 2 := by decide +kernel

/-- The first address out of range, and the last. -/
theorem witness_ReadsAreLittleEndianByBytes : inRange 0x100000 = false ∧ inRange 0xFFFFFFFF = false := by decide +kernel

/-- The first and the last access of four bytes. -/
theorem witness_MixedWidthAccess : spanInRange 0 4 = true ∧ spanInRange 0xFFFFC 4 = true := by decide +kernel

/-- The longest instruction at the end of memory. -/
theorem witness_FetchSeesStores :
    let s := given [] 0 0xFFFFA []
    (Instr.movi 0 0xDEADBEEF).WellFormed ∧ spanInRange s.pc (Instr.movi 0 0xDEADBEEF).length = true := by decide +kernel

/-- The highest registers that can be named, and the lowest cell. -/
theorem witness_PopGivesWhatWasPushed :
    let s := given [(7, 4)] 0 0x7C00 []
    let t := done (.push 7) s
    (7#8).toNat < 8 ∧ (6#8).toNat < 7 ∧ spanInRange (s.reg 7 - 4#32) 4 = true ∧
      exec (.push 7) s = .next t ∧ exec (.pop 6) t = .next (done (.pop 6) t) ∧
      ((6 : Fin 8).val = (6#8).toNat ∧ (7 : Fin 8).val = (7#8).toNat) :=
  ⟨by decide, by decide, by decide +kernel, rfl, rfl, by decide⟩

/-- Equal, below and above. -/
theorem witness_ConditionsAfterCompare :
    (0 : Fin 8).val = (0#8).toNat ∧ (7 : Fin 8).val = (7#8).toNat ∧
    (∀ s : State, exec (.cmp 0 7) s = .next (done (.cmp 0 7) s)) ∧
    (done (.cmp 7 7) start).holds .z = true ∧ (done (.cmp 0 7) start).holds .b = true ∧
    (done (.cmp 7 0) start).holds .a = true :=
  ⟨by decide, by decide, fun _ => rfl, by decide +kernel, by decide +kernel, by decide +kernel⟩

/-- The lowest and the highest cell. -/
theorem witness_CallThenReturn :
    (∀ sp : Word, sp = 4 ∨ sp = 0x100000 →
      spanInRange ((given [(7, sp)] 0 0x7C00 []).reg 7 - 4#32) 4 = true) ∧
    ∀ s : State, let t := done (.call 0x7C06) s
      exec (.call 0x7C06) s = .next t ∧ exec .ret t = .next (done .ret t) :=
  ⟨fun sp h => by rcases h with rfl | rfl <;> decide +kernel, fun _ => ⟨rfl, rfl⟩⟩

/-- The lowest and the highest two cells. -/
theorem witness_SyscallThenSysret :
    (∀ sp : Word, sp = 8 ∨ sp = 0x100000 →
      spanInRange ((given [(7, sp)] 0 0x7C00 []).reg 7 - 8#32) 8 = true) ∧
    ∀ s : State, let t := done .syscall s
      exec .syscall s = .next t ∧ exec .sysret t = .next (done .sysret t) :=
  ⟨fun sp h => by rcases h with rfl | rfl <;> decide +kernel, fun _ => ⟨rfl, rfl⟩⟩

/-- A machine with an image of `n` bytes, asked for `count` sectors from cylinder 0, head 0, sector 1 (vector V-Y23). -/
def withImage (n : Nat) (count : Word) : State :=
  let s := given [(0, count), (2, 1), (3, 0x8000)] 0 0x7C00 []
  { s with setup := { s.setup with diskImage := some (List.replicate n 0xA0) } }

/-- Where the request of a state starts in the image. -/
def requestOffset (s : State) : Int :=
  diskOffset s.diskRequest.cylinder s.diskRequest.head s.diskRequest.sector

/-- Sector 0 of an image of one sector can be read. -/
theorem withImage_readable (count : Word) (h : requestOffset (withImage 512 count) = 0) :
    sectorReadable (withImage 512 count) (withImage 512 count).diskRequest 0 := by
  rw [requestOffset] at h
  exact ⟨List.replicate 512 0xA0, rfl, by rw [h]; decide, by rw [h, List.length_replicate]; decide⟩

/-- Sector 1 of an image of one sector cannot. -/
theorem withImage_not_readable (count : Word) (h : requestOffset (withImage 512 count) = 0) :
    ¬sectorReadable (withImage 512 count) (withImage 512 count).diskRequest 1 := by
  rintro ⟨image, hi, -, hl⟩
  cases hi
  rw [requestOffset] at h
  rw [h, List.length_replicate] at hl
  exact absurd hl (by decide)

/-- No sector, and all of an image's one sector. -/
theorem witness_DiskReadCopiesSectors :
    (let s := withImage 512 0x200
     ∀ j, j < s.diskRequest.count → sectorReadable s s.diskRequest j) ∧
    (withImage 512 0x201).diskRequest.count = 1 ∧
    (let s := withImage 512 0x201
     ∀ j, j < s.diskRequest.count → sectorReadable s s.diskRequest j) := by
  have h0 : (withImage 512 0x200).diskRequest.count = 0 := by decide +kernel
  have h1 : (withImage 512 0x201).diskRequest.count = 1 := by decide +kernel
  refine ⟨fun j h => ?_, h1, fun j h => ?_⟩
  · rw [h0] at h
    omega
  · rw [h1] at h
    obtain rfl : j = 0 := by omega
    exact withImage_readable _ (by decide +kernel)

/-- The first sector, with no image attached, and the last of two, with an image of one sector. -/
theorem witness_DiskReadFailsAtFirstBadSector :
    (let s := given [(0, 0x201), (2, 1), (3, 0x8000)] 0 0x7C00 []
     0 < s.diskRequest.count ∧ ¬sectorReadable s s.diskRequest 0) ∧
    (let s := withImage 512 0x202
     1 < s.diskRequest.count ∧ (∀ j, j < 1 → sectorReadable s s.diskRequest j) ∧
       ¬sectorReadable s s.diskRequest 1) := by
  have h0 : requestOffset (withImage 512 0x202) = 0 := by decide +kernel
  refine ⟨⟨by decide +kernel, ?_⟩, by decide +kernel, fun j h => ?_, withImage_not_readable _ h0⟩
  · rintro ⟨_, h, -⟩
    cases h
  · obtain rfl : j = 0 := by omega
    exact withImage_readable _ h0

/-- The reports of a disk read that fails (vectors V-Y26 and V-Y29). -/
theorem test_disk_failures :
    (let t := ran [0xCD, 0x13] (given [(0, 0x201), (2, 1), (3, 0x8000)] 0 0x7C00 [])
     t.flags = 2 ∧ t.events = [.diag (.diskIo 0x7C00 0 0 1 0)]) ∧
    (let t := ran [0xCD, 0x13] (given [(0, 0x201), (3, 0x8000)] 0 0x7C00 [])
     t.flags = 2 ∧ t.events = [.diag (.diskIo 0x7C00 0 0 0 (-512))]) := by decide +kernel

/-- The offsets of section 4 of 95_test_vectors.md. -/
theorem test_disk_geometry :
    [diskOffset 0 0 1, diskOffset 0 0 18, diskOffset 0 1 1, diskOffset 1 0 1, diskOffset 79 1 18, diskOffset 0 0 0] =
      [0, 8704, 9216, 18432, 1474048, -512] := by decide +kernel

/-- Boot load with no image, and with one byte too few (vector RL5). -/
theorem test_boot_failures :
    bootLoad Setup.default = .fault .bootFailure ∧
    bootLoad { Setup.default with diskImage := some (List.replicate 511 0) } = .fault .bootFailure := by
  refine ⟨rfl, ?_⟩
  rw [bootLoad]
  exact if_pos (by rw [List.length_replicate]; decide)

end Sys2Proof.Tests
end

section
/-!
PROOFS. Data movement that stores nothing: the moves (O25), the loads (O26) and the pops (O29). First what a partial register
write, a legacy opcode byte, a load and a pop are; then each instruction's equation of `exec`, and its rule by the guard rules.
-/

namespace Sys2Proof.Machine

/-! ## Partial register writes and legacy opcodes -/

/-- Replacing the low `n` bits is masking them out and putting the new ones in. -/
theorem extractLsb'_append_eq_and_or (m n : Nat) (w : BitVec (m + n)) (v : BitVec n) :
    w.extractLsb' n m ++ v = (w &&& (BitVec.allOnes (m + n) <<< n)) ||| v.setWidth (m + n) := by
  ext i hi
  rw [BitVec.getElem_append]
  by_cases h : i < n
  · simp [h]
  · have hin : n + (i - n) = i := by omega
    simp [h, hin, BitVec.getLsbD_of_ge v i (Nat.not_lt.mp h), BitVec.getLsbD_eq_getElem hi]

theorem State.setRegLow8_eq (s : State) (i : Fin 8) (b : Byte) :
    s.setRegLow8 i b = s.setReg i ((s.reg i &&& 0xFFFFFF00#32) ||| b.setWidth 32) :=
  congrArg (s.setReg i) (extractLsb'_append_eq_and_or 24 8 (s.reg i) b)

theorem State.setRegLow16_eq (s : State) (i : Fin 8) (h : Half) :
    s.setRegLow16 i h = s.setReg i ((s.reg i &&& 0xFFFF0000#32) ||| h.setWidth 32) :=
  congrArg (s.setReg i) (extractLsb'_append_eq_and_or 16 16 (s.reg i) h)

/-- A legacy opcode is the first of its eight plus the register's number (R115). -/
theorem legacyOpcode_eq_add (high : BitVec 5) (r : BitVec 3) :
    legacyOpcode high r = (high ++ 0#3) + r.setWidth 8 := by
  revert high r; decide

/-! ## Loads and pops -/

/-- A data read, the write of a register, then the pc advance (R72, R74). -/
theorem noteRead_setReg_effect (s : State) (a : Word) (n : Nat) (i : Fin 8) (v len : Word) :
    let t := ((s.noteRead a n).setReg i v).advance s len
    t.reg i = v ∧ NoStore s t [i] [] (readReport a n) :=
  ⟨by simp, (((NoStore.refl s [i] []).noteRead a n).setReg (by simp) v).advance _ _⟩

/-- The registers after a pop's increment of x[7]. -/
theorem State.popped_reg (s : State) (n : Nat) (j : Fin 8) :
    (s.popped n).reg j = if j = 7 then s.reg 7 + BitVec.ofNat 32 n else s.reg j := by
  simp [State.popped_eq, State.reg_setReg, State.sp]

/-- A pop's increment, the write of a register, x[7] itself included, then the pc advance (R170, R174). -/
theorem popped_setReg_effect (s : State) (n : Nat) (i : Fin 8) (v len : Word) :
    let t := ((s.popped n).setReg i v).advance s len
    t.reg i = v ∧ (i ≠ 7 → t.reg 7 = s.reg 7 + BitVec.ofNat 32 n) ∧
      NoStore s t [i, 7] [] (readReport (s.reg 7) n) := by
  obtain ⟨hsp, hframe⟩ := noStore_popped s n
  refine ⟨by simp, fun h => ?_, ?_⟩
  · rw [State.advance_reg, State.reg_setReg_ne _ h.symm, hsp]
  · exact ((hframe.mono (by simp) (by simp)).setReg (by simp) v).advance _ _

/-! ## The moves -/

theorem exec_mov (d e : Byte) (s : State) :
    exec (.mov d e) s = guard2 d e len3 s fun i j => s.setReg i (s.reg j) := rfl

theorem exec_movi (v : Word) (r : Byte) (s : State) :
    exec (.movi r v) s = guard1 r len6 s fun i => s.setReg i v := rfl

theorem exec_mov8 (r : BitVec 3) (b : Byte) (s : State) :
    exec (.mov8 r b) s = .next ((s.setReg (regOfField r)
      ((s.reg (regOfField r) &&& 0xFFFFFF00#32) ||| b.setWidth 32)).advance s len2) := by
  rw [← State.setRegLow8_eq]; rfl

theorem exec_mov16 (r : BitVec 3) (h : Half) (s : State) :
    exec (.mov16 r h) s = .next ((s.setReg (regOfField r)
      ((s.reg (regOfField r) &&& 0xFFFF0000#32) ||| h.setWidth 32)).advance s len3) := by
  rw [← State.setRegLow16_eq]; rfl

theorem mov_rule : PairRule .mov [0x01#8] (fun d e s t => Assigns s t d (s.reg e)) :=
  pairRule_of_guard2 (fun _ _ => rfl) rfl exec_mov fun i j s => assigns_setReg s i (s.reg j) _

theorem movi_rule (v : Word) : RegisterRule (.movi · v) [0x02#8] (bytes32 v) fun r s t => Assigns s t r v :=
  registerRule_of_guard1 (fun _ => rfl) rfl (exec_movi v) fun i s => assigns_setReg s i v _

theorem mov8_rule (r : BitVec 3) (b : Byte) :
    Advances (.mov8 r b) [0xB0#8 + r.setWidth 8, b] fun s t =>
      Assigns s t (regOfField r) ((s.reg (regOfField r) &&& 0xFFFFFF00#32) ||| b.setWidth 32) :=
  advances_of (congrArg ([·, b]) (legacyOpcode_eq_add 0b10110#5 r)) rfl (exec_mov8 r b)
    fun s => assigns_setReg s _ _ _

theorem mov16_rule (r : BitVec 3) (h : Half) :
    Advances (.mov16 r h) ((0xB8#8 + r.setWidth 8) :: bytes16 h) fun s t =>
      Assigns s t (regOfField r) ((s.reg (regOfField r) &&& 0xFFFF0000#32) ||| h.setWidth 32) :=
  advances_of (congrArg (· :: bytes16 h) (legacyOpcode_eq_add 0b10111#5 r)) rfl (exec_mov16 r h)
    fun s => assigns_setReg s _ _ _

/-- Settles O25: each move is one register write, under its guard where it has one. -/
theorem moveRules : Obligations.MoveRules :=
  ⟨mov_rule, movi_rule, mov8_rule, mov16_rule⟩

/-! ## The loads -/

theorem exec_lda (a : Word) (r : Byte) (s : State) :
    exec (.lda r a) s = guard1 r len6 s fun i => (s.noteRead a 4).setReg i (s.readWord a) := rfl

theorem exec_ldr (d e : Byte) (s : State) :
    exec (.ldr d e) s = guard2 d e len3 s fun i j => (s.noteRead (s.reg j) 4).setReg i (s.readWord (s.reg j)) := rfl

theorem exec_ldzb (d e : Byte) (s : State) :
    exec (.ldzb d e) s = guard2 d e len3 s fun i j =>
      (s.noteRead (s.reg j) 1).setReg i ((s.readByte (s.reg j)).zeroExtend 32) := rfl

theorem exec_ldsb (d e : Byte) (s : State) :
    exec (.ldsb d e) s = guard2 d e len3 s fun i j =>
      (s.noteRead (s.reg j) 1).setReg i ((s.readByte (s.reg j)).signExtend 32) := rfl

theorem lda_rule (a : Word) :
    RegisterRule (.lda · a) [0x03#8] (bytes32 a) fun r s t =>
      t.reg r = s.readWord a ∧ NoStore s t [r] [] (readReport a 4) :=
  registerRule_of_guard1 (fun _ => rfl) rfl (exec_lda a) fun i s => noteRead_setReg_effect s a 4 i _ _

theorem ldr_rule :
    PairRule .ldr [0x05#8] fun d e s t =>
      t.reg d = s.readWord (s.reg e) ∧ NoStore s t [d] [] (readReport (s.reg e) 4) :=
  pairRule_of_guard2 (fun _ _ => rfl) rfl exec_ldr fun i j s => noteRead_setReg_effect s (s.reg j) 4 i _ _

theorem ldzb_rule :
    PairRule .ldzb [0x07#8] fun d e s t =>
      (t.reg d).toNat = (s.readByte (s.reg e)).toNat ∧ NoStore s t [d] [] (readReport (s.reg e) 1) := by
  refine pairRule_of_guard2 (fun _ _ => rfl) rfl exec_ldzb fun i j s => ?_
  obtain ⟨hvalue, hframe⟩ := noteRead_setReg_effect s (s.reg j) 1 i ((s.readByte (s.reg j)).zeroExtend 32) len3
  exact ⟨(congrArg BitVec.toNat hvalue).trans (BitVec.toNat_setWidth_of_le (by decide)), hframe⟩

theorem ldsb_rule :
    PairRule .ldsb [0x08#8] fun d e s t =>
      (t.reg d).toInt = (s.readByte (s.reg e)).toInt ∧ NoStore s t [d] [] (readReport (s.reg e) 1) := by
  refine pairRule_of_guard2 (fun _ _ => rfl) rfl exec_ldsb fun i j s => ?_
  obtain ⟨hvalue, hframe⟩ := noteRead_setReg_effect s (s.reg j) 1 i ((s.readByte (s.reg j)).signExtend 32) len3
  exact ⟨(congrArg BitVec.toInt hvalue).trans (BitVec.toInt_signExtend_of_le (by decide)), hframe⟩

/-- Settles O26: each load is one data read and one register write, and extension keeps the byte's value, unsigned for LDZB and
signed for LDSB. -/
theorem loadRules : Obligations.LoadRules :=
  ⟨lda_rule, ldr_rule, ldzb_rule, ldsb_rule⟩

/-! ## The pops -/

theorem exec_pop (r : Byte) (s : State) :
    exec (.pop r) s = guard1 r len2 s fun i => (s.popped 4).setReg i (s.readWord (s.reg 7)) := rfl

/-- The upper half that POP16 keeps is that of the register after the increment of x[7] (R174). -/
theorem exec_pop16 (r : BitVec 3) (s : State) :
    exec (.pop16 r) s = .next (((s.popped 2).setReg (regOfField r)
      (((if regOfField r = 7 then s.reg 7 + 2#32 else s.reg (regOfField r)) &&& 0xFFFF0000#32) |||
        (s.readHalf (s.reg 7)).setWidth 32)).advance s len1) := by
  rw [← State.popped_reg s 2, ← State.setRegLow16_eq]; rfl

theorem pop_rule :
    RegisterRule .pop [0x0B#8] [] fun r s t =>
      t.reg r = s.readWord (s.reg 7) ∧ (r ≠ 7 → t.reg 7 = s.reg 7 + 4#32) ∧
        NoStore s t [r, 7] [] (readReport (s.reg 7) 4) :=
  registerRule_of_guard1 (fun _ => rfl) rfl exec_pop fun i s => popped_setReg_effect s 4 i _ _

theorem pop16_rule (r : BitVec 3) :
    Advances (.pop16 r) [0x58#8 + r.setWidth 8] fun s t =>
      let i := regOfField r
      let old := if i = 7 then s.reg 7 + 2#32 else s.reg i
      t.reg i = ((old &&& 0xFFFF0000#32) ||| (s.readHalf (s.reg 7)).setWidth 32) ∧ (i ≠ 7 → t.reg 7 = s.reg 7 + 2#32) ∧
        NoStore s t [i, 7] [] (readReport (s.reg 7) 2) :=
  advances_of (congrArg ([·]) (legacyOpcode_eq_add 0b01011#5 r)) rfl (exec_pop16 r)
    fun s => popped_setReg_effect s 2 (regOfField r) _ _

/-- Settles O29: each pop is the increment of x[7] and then one register write, so r7 is written last. -/
theorem popRules : Obligations.PopRules :=
  ⟨pop_rule, pop16_rule⟩

end Sys2Proof.Machine
end

section
/-!
PROOFS. Arithmetic (O31 to O35). First the exact integer facts about words that the rules turn on; then what `State.result` with a
carry and `State.wideResult` do; then each instruction's equation of `exec`, and its rule by the guard rules.
-/

namespace Sys2Proof.Machine

/-! ## Sums and differences of words -/

/-- The difference of two words is their integer difference modulo 2^w. -/
theorem sub_eq_ofInt {w : Nat} (a b : BitVec w) : a - b = BitVec.ofInt w ((a.toNat : Int) - b.toNat) := by
  rw [Int.sub_eq_add_neg, BitVec.ofInt_add, BitVec.ofInt_neg]
  simp [BitVec.sub_eq_add_neg]

/-- A sum below twice 2^w is its word with the carry out of it (R206). -/
theorem toNat_ofNat_add_carry {w t : Nat} (ht : t < 2 ^ w + 2 ^ w) :
    (BitVec.ofNat w t).toNat + (if 2 ^ w ≤ t then 2 ^ w else 0) = t := by
  rw [BitVec.toNat_ofNat]
  split
  · rw [Nat.mod_eq_sub_mod ‹_›, Nat.mod_eq_of_lt (by omega)]; omega
  · rw [Nat.mod_eq_of_lt (by omega)]; rfl

/-- A difference of -2^w or more is its word with the borrow out of it (R207). -/
theorem toNat_ofInt_sub_borrow {w : Nat} {t : Int} (hlow : -2 ^ w ≤ t) (hhigh : t < 2 ^ w) :
    ((BitVec.ofInt w t).toNat : Int) - (if t < 0 then 2 ^ w else 0) = t := by
  have hpos : (0 : Int) < 2 ^ w := by positivity
  rw [BitVec.toNat_ofInt, Nat.cast_pow, Nat.cast_ofNat, Int.toNat_of_nonneg (Int.emod_nonneg _ hpos.ne')]
  split
  · rw [← Int.add_emod_right, Int.emod_eq_of_lt (by omega) (by omega)]; omega
  · rw [Int.emod_eq_of_lt (by omega) hhigh]; omega

theorem carrySum_lt (a b : Word) (c : Bool) : carrySum a b c.toNat < 2 ^ 32 + 2 ^ 32 := by
  have := c.toNat_le
  simp only [carrySum]; omega

theorem borrowDifference_bounds (a b : Word) (c : Bool) :
    -2 ^ 32 ≤ borrowDifference a b c.toNat ∧ borrowDifference a b c.toNat < 2 ^ 32 := by
  have := c.toNat_le
  simp only [borrowDifference]; omega

/-- CF as a number, as the rules of ADC and SBB write it. -/
theorem State.carryIn_eq (s : State) : s.carryIn = if s.cf then 1 else 0 := by
  cases h : s.cf <;> simp [State.carryIn, h]

/-! ## Products of words and their halves -/

theorem highWord_append_lowWord (p : BitVec 64) : highWord p ++ lowWord p = p :=
  BitVec.extractLsb'_append_extractLsb' (w := 32) (len := 32)

theorem toNat_append_words (high low : Word) : (high ++ low).toNat = high.toNat * 2 ^ 32 + low.toNat := by
  rw [BitVec.toNat_append, ← Nat.shiftLeft_add_eq_or_of_lt low.isLt, Nat.shiftLeft_eq]

theorem toInt_append_words (high low : Word) : (high ++ low).toInt = high.toInt * 2 ^ 32 + low.toNat := by
  rw [BitVec.toInt_append, if_neg (by decide), mul_comm]

theorem toNat_unsignedProduct (a b : Word) : (unsignedProduct a b).toNat = a.toNat * b.toNat := by
  have hlt : a.toNat * b.toNat < 2 ^ 32 * 2 ^ 32 := Nat.mul_lt_mul'' a.isLt b.isLt
  exact Nat.mod_eq_of_lt hlt

theorem toInt_signedProduct (a b : Word) : (signedProduct a b).toInt = a.toInt * b.toInt := by
  have hlow : -2 ^ 62 ≤ a.toInt * b.toInt := BitVec.le_toInt_mul_toInt
  have hhigh : a.toInt * b.toInt ≤ 2 ^ 62 := BitVec.toInt_mul_toInt_le
  exact BitVec.toInt_ofInt_eq_self (by decide) (by omega) (by omega)

theorem lowWord_ofInt (z : Int) : lowWord (BitVec.ofInt 64 z) = BitVec.ofInt 32 z := by
  apply BitVec.eq_of_toNat_eq
  simp only [lowWord, BitVec.extractLsb'_toNat, BitVec.toNat_ofInt, Nat.shiftRight_zero]
  omega

/-- The low half of the signed product is the product modulo 2^32 (R220). -/
theorem lowWord_signedProduct (a b : Word) : lowWord (signedProduct a b) = a * b := by
  rw [signedProduct, lowWord_ofInt, BitVec.ofInt_mul, BitVec.ofInt_toInt, BitVec.ofInt_toInt]

/-- The low half of the unsigned product is the product modulo 2^32 (R220). -/
theorem lowWord_unsignedProduct (a b : Word) : lowWord (unsignedProduct a b) = a * b := by
  rw [unsignedProduct, ← BitVec.ofInt_natCast, lowWord_ofInt, BitVec.ofInt_natCast, BitVec.ofNat_mul,
    BitVec.ofNat_toNat, BitVec.ofNat_toNat, BitVec.setWidth_eq, BitVec.setWidth_eq]

/-! ## Division that rounds toward zero -/

/-- A truncated quotient's remainder is nearer to 0 than the divisor. -/
theorem abs_tmod_lt (n : Int) {d : Int} (hd : d ≠ 0) : |n.tmod d| < |d| := by
  rw [Int.abs_eq_natAbs, Int.abs_eq_natAbs, Int.natAbs_tmod]
  exact_mod_cast Nat.mod_lt _ (Int.natAbs_pos.mpr hd)

theorem tmod_nonpos {n : Int} (d : Int) (hn : n ≤ 0) : n.tmod d ≤ 0 := by
  have h : 0 ≤ (-n).tmod d := Int.tmod_nonneg d (by omega)
  rw [Int.neg_tmod] at h
  omega

/-- A number nearer to 0 than a word's signed value is the signed value of a word. -/
theorem toInt_ofInt_of_abs_lt {w : Nat} {m : Int} (d : BitVec w) (hw : 0 < w) (h : |m| < |d.toInt|) :
    (BitVec.ofInt w m).toInt = m := by
  have hd : |d.toInt| ≤ 2 ^ (w - 1) := abs_le.mpr ⟨d.le_toInt, d.toInt_lt.le⟩
  obtain ⟨hlow, hhigh⟩ := abs_lt.mp (h.trans_le hd)
  exact BitVec.toInt_ofInt_eq_self hw hlow.le hhigh

/-! ## The shared ends of the instructions -/

@[simp] theorem State.result_reg_self (s : State) (i : Fin 8) (v : Word) : (s.result i v).reg i = v := by
  simp [State.result]

@[simp] theorem State.result_zf (s : State) (i : Fin 8) (v : Word) : (s.result i v).zf = decide (v = 0#32) := by
  simp [State.result]

@[simp] theorem State.wideResult_reg_zero (s : State) (low high : Word) : (s.wideResult low high).reg 0 = low := by
  simp [State.wideResult, State.reg_setReg]

@[simp] theorem State.wideResult_reg_one (s : State) (low high : Word) : (s.wideResult low high).reg 1 = high := by
  simp [State.wideResult]

@[simp] theorem State.wideResult_zf (s : State) (low high : Word) :
    (s.wideResult low high).zf = decide (low = 0#32) := by
  simp [State.wideResult]

/-- `State.result` and CF, then the pc advance (R206, R207). -/
theorem noStore_result_setCF (s : State) (i : Fin 8) (v : Word) (c : Bool) (len : Word) :
    NoStore s (((s.result i v).setCF c).advance s len) [i] [zfBit, cfBit] [] :=
  ((((NoStore.refl s [i] [zfBit, cfBit]).setReg (by simp) v).setZF (by simp) _).setCF (by simp) c).advance _ _

/-- `State.wideResult`, then the pc advance (R209 to R212). -/
theorem noStore_wideResult (s : State) (low high len : Word) :
    NoStore s ((s.wideResult low high).advance s len) [0, 1] [zfBit] [] :=
  ((((NoStore.refl s [0, 1] [zfBit]).setReg (by simp) low).setReg (by simp) high).setZF (by simp) _).advance _ _

/-- A report, then the pc advance, changes nothing else (R14). -/
theorem noStore_raise (s : State) (d : Diag) (len : Word) : NoStore s ((s.raise d).advance s len) [] [] [.diag d] :=
  ((NoStore.refl s [] []).emit _).advance _ _

/-! ## ADD, ADDI, SUB, SUBI, INC, DEC and NEG -/

theorem exec_add (d e : Byte) (s : State) :
    exec (.add d e) s = guard2 d e len3 s fun i j => s.result i (s.reg i + s.reg j) := rfl

theorem exec_addi (v : Word) (r : Byte) (s : State) :
    exec (.addi r v) s = guard1 r len6 s fun i => s.result i (s.reg i + v) := rfl

theorem exec_sub (d e : Byte) (s : State) :
    exec (.sub d e) s = guard2 d e len3 s fun i j => s.result i (s.reg i - s.reg j) := rfl

theorem exec_subi (v : Word) (r : Byte) (s : State) :
    exec (.subi r v) s = guard1 r len6 s fun i => s.result i (s.reg i - v) := rfl

theorem exec_inc (r : Byte) (s : State) :
    exec (.inc r) s = guard1 r len2 s fun i => s.result i (s.reg i + 1#32) := rfl

theorem exec_dec (r : Byte) (s : State) :
    exec (.dec r) s = guard1 r len2 s fun i => s.result i (s.reg i - 1#32) := rfl

theorem exec_neg (r : Byte) (s : State) :
    exec (.neg r) s = guard1 r len3 s fun i => s.result i (0#32 - s.reg i) := rfl

/-- `State.result` of a sum, then the pc advance (R200, R201, R204). -/
theorem results_add (s : State) (i : Fin 8) (a b len : Word) :
    Results s ((s.result i (a + b)).advance s len) i (BitVec.ofNat 32 (a.toNat + b.toNat)) := by
  rw [← BitVec.add_def]; exact results_result s i _ len

/-- `State.result` of a difference, then the pc advance (R202, R203, R205, R208). -/
theorem results_sub (s : State) (i : Fin 8) (a b len : Word) :
    Results s ((s.result i (a - b)).advance s len) i (BitVec.ofInt 32 ((a.toNat : Int) - b.toNat)) := by
  rw [← sub_eq_ofInt]; exact results_result s i _ len

theorem add_rule :
    PairRule .add [0x10#8] fun d e s t =>
      Results s t d (BitVec.ofNat 32 ((s.reg d).toNat + (s.reg e).toNat)) :=
  pairRule_of_guard2 (fun _ _ => rfl) rfl exec_add fun i j s => results_add s i (s.reg i) (s.reg j) _

theorem addi_rule (v : Word) :
    RegisterRule (.addi · v) [0x11#8] (bytes32 v) fun r s t =>
      Results s t r (BitVec.ofNat 32 ((s.reg r).toNat + v.toNat)) :=
  registerRule_of_guard1 (fun _ => rfl) rfl (exec_addi v) fun i s => results_add s i (s.reg i) v _

theorem sub_rule :
    PairRule .sub [0x12#8] fun d e s t =>
      Results s t d (BitVec.ofInt 32 ((s.reg d).toNat - (s.reg e).toNat : Int)) :=
  pairRule_of_guard2 (fun _ _ => rfl) rfl exec_sub fun i j s => results_sub s i (s.reg i) (s.reg j) _

theorem subi_rule (v : Word) :
    RegisterRule (.subi · v) [0x13#8] (bytes32 v) fun r s t =>
      Results s t r (BitVec.ofInt 32 ((s.reg r).toNat - v.toNat : Int)) :=
  registerRule_of_guard1 (fun _ => rfl) rfl (exec_subi v) fun i s => results_sub s i (s.reg i) v _

theorem inc_rule :
    RegisterRule .inc [0x14#8] [] fun r s t => Results s t r (BitVec.ofNat 32 ((s.reg r).toNat + 1)) :=
  registerRule_of_guard1 (fun _ => rfl) rfl exec_inc fun i s => results_add s i (s.reg i) 1#32 _

theorem dec_rule :
    RegisterRule .dec [0x15#8] [] fun r s t => Results s t r (BitVec.ofInt 32 ((s.reg r).toNat - 1 : Int)) :=
  registerRule_of_guard1 (fun _ => rfl) rfl exec_dec fun i s => results_sub s i (s.reg i) 1#32 _

theorem neg_rule :
    RegisterRule .neg [0xF7#8, 0x03#8] [] fun r s t => Results s t r (BitVec.ofInt 32 (0 - (s.reg r).toNat : Int)) :=
  registerRule_of_guard1 (fun _ => rfl) rfl exec_neg fun i s => results_sub s i 0#32 (s.reg i) _

/-- Settles O31: each instruction is one `State.result`, of a sum or of a difference of words. -/
theorem addSubtractRules : Obligations.AddSubtractRules :=
  ⟨add_rule, addi_rule, sub_rule, subi_rule, inc_rule, dec_rule, neg_rule⟩

/-! ## ADC and SBB -/

theorem exec_adc (d e : Byte) (s : State) :
    exec (.adc d e) s = guard2 d e len3 s fun i j =>
      (s.result i (BitVec.ofNat 32 (carrySum (s.reg i) (s.reg j) s.carryIn))).setCF
        (decide (2 ^ 32 ≤ carrySum (s.reg i) (s.reg j) s.carryIn)) := rfl

theorem exec_sbb (d e : Byte) (s : State) :
    exec (.sbb d e) s = guard2 d e len3 s fun i j =>
      (s.result i (BitVec.ofInt 32 (borrowDifference (s.reg i) (s.reg j) s.carryIn))).setCF
        (decide (borrowDifference (s.reg i) (s.reg j) s.carryIn < 0)) := rfl

theorem adc_rule :
    PairRule .adc [0x16#8] fun d e s t =>
      (t.reg d).toNat + (if t.cf then 2 ^ 32 else 0) = (s.reg d).toNat + (s.reg e).toNat + (if s.cf then 1 else 0) ∧
      t.zf = decide (t.reg d = 0#32) ∧ NoStore s t [d] [zfBit, cfBit] [] := by
  refine pairRule_of_guard2 (fun _ _ => rfl) rfl exec_adc fun i j s =>
    ⟨?_, by simp, noStore_result_setCF s i _ _ _⟩
  have hexact := toNat_ofNat_add_carry (carrySum_lt (s.reg i) (s.reg j) s.cf)
  simp only [State.advance_reg, State.setCF_reg, State.result_reg_self, State.advance_cf, State.cf_setCF,
    decide_eq_true_eq, ← State.carryIn_eq]
  exact hexact

theorem sbb_rule :
    PairRule .sbb [0x17#8] fun d e s t =>
      ((t.reg d).toNat : Int) - (if t.cf then 2 ^ 32 else 0) =
        (s.reg d).toNat - (s.reg e).toNat - (if s.cf then 1 else 0) ∧
      t.zf = decide (t.reg d = 0#32) ∧ NoStore s t [d] [zfBit, cfBit] [] := by
  refine pairRule_of_guard2 (fun _ _ => rfl) rfl exec_sbb fun i j s =>
    ⟨?_, by simp, noStore_result_setCF s i _ _ _⟩
  obtain ⟨hlow, hhigh⟩ := borrowDifference_bounds (s.reg i) (s.reg j) s.cf
  have hexact := toNat_ofInt_sub_borrow hlow hhigh
  have hcarry : (s.carryIn : Int) = if s.cf then 1 else 0 := by rw [State.carryIn_eq]; split <;> rfl
  simp only [State.advance_reg, State.setCF_reg, State.result_reg_self, State.advance_cf, State.cf_setCF,
    decide_eq_true_eq, ← hcarry]
  exact hexact

/-- Settles O32: the exact sum or difference lies in the range that one register and one carry hold. -/
theorem carryRules : Obligations.CarryRules :=
  ⟨adc_rule, sbb_rule⟩

/-! ## MUL and IMUL -/

theorem exec_mul (r : Byte) (s : State) :
    exec (.mul r) s = guard1 r len3 s fun i =>
      s.wideResult (lowWord (unsignedProduct (s.reg 0) (s.reg i))) (highWord (unsignedProduct (s.reg 0) (s.reg i))) := rfl

theorem exec_imul (r : Byte) (s : State) :
    exec (.imul r) s = guard1 r len3 s fun i =>
      s.wideResult (lowWord (signedProduct (s.reg 0) (s.reg i))) (highWord (signedProduct (s.reg 0) (s.reg i))) := rfl

theorem mul_rule :
    RegisterRule .mul [0xF7#8, 0x04#8] [] fun r s t =>
      (t.reg 1).toNat * 2 ^ 32 + (t.reg 0).toNat = (s.reg 0).toNat * (s.reg r).toNat ∧ t.reg 0 = s.reg 0 * s.reg r ∧
      t.zf = decide (t.reg 0 = 0#32) ∧ NoStore s t [0, 1] [zfBit] [] := by
  refine registerRule_of_guard1 (fun _ => rfl) rfl exec_mul fun i s =>
    ⟨?_, by simp [lowWord_unsignedProduct], by simp, noStore_wideResult s _ _ _⟩
  simp only [State.advance_reg, State.wideResult_reg_zero, State.wideResult_reg_one]
  rw [← toNat_append_words, highWord_append_lowWord, toNat_unsignedProduct]

theorem imul_rule :
    RegisterRule .imul [0xF7#8, 0x05#8] [] fun r s t =>
      (t.reg 1).toInt * 2 ^ 32 + (t.reg 0).toNat = (s.reg 0).toInt * (s.reg r).toInt ∧ t.reg 0 = s.reg 0 * s.reg r ∧
      t.zf = decide (t.reg 0 = 0#32) ∧ NoStore s t [0, 1] [zfBit] [] := by
  refine registerRule_of_guard1 (fun _ => rfl) rfl exec_imul fun i s =>
    ⟨?_, by simp [lowWord_signedProduct], by simp, noStore_wideResult s _ _ _⟩
  simp only [State.advance_reg, State.wideResult_reg_zero, State.wideResult_reg_one]
  rw [← toInt_append_words, highWord_append_lowWord, toInt_signedProduct]

/-- Settles O33: the product of two words fits 64 bits, so its two halves joined are exact. -/
theorem multiplyRules : Obligations.MultiplyRules :=
  ⟨mul_rule, imul_rule⟩

/-! ## DIV and IDIV -/

theorem exec_div (r : Byte) (s : State) :
    exec (.div r) s = guard1 r len3 s fun i =>
      if (s.reg i).toNat = 0 then s.raise (.divZero s.pc)
      else s.wideResult (BitVec.ofNat 32 (s.unsignedDividend / (s.reg i).toNat))
        (BitVec.ofNat 32 (s.unsignedDividend % (s.reg i).toNat)) := rfl

/-- The remainder that IDIV computes from its quotient is `Int.tmod` (R212). -/
theorem exec_idiv (r : Byte) (s : State) :
    exec (.idiv r) s = guard1 r len3 s fun i =>
      if s.reg i = 0#32 then s.raise (.divZero s.pc)
      else s.wideResult (BitVec.ofInt 32 (s.signedDividend.tdiv (s.reg i).toInt))
        (BitVec.ofInt 32 (s.signedDividend.tmod (s.reg i).toInt)) := by
  simp only [Int.tmod_def, mul_comm (BitVec.toInt _) (Int.tdiv _ _)]; rfl

theorem State.signedDividend_eq (s : State) :
    s.signedDividend = (s.reg 1).toInt * 2 ^ 32 + (s.reg 0).toNat := toInt_append_words _ _

/-- Settles O34: the quotient and remainder are those of natural numbers, and the remainder, below the divisor, fits x[1]. -/
theorem unsignedDivideRule : Obligations.UnsignedDivideRule := by
  refine registerRule_of_guard1 (fun _ => rfl) rfl exec_div fun i s => ?_
  by_cases h : s.reg i = 0#32
  · rw [if_pos h, if_pos (by rw [h]; rfl)]
    exact noStore_raise s _ _
  · have hd : (s.reg i).toNat ≠ 0 := fun e => h (BitVec.eq_of_toNat_eq e)
    rw [if_neg h, if_neg hd]
    have hm : s.unsignedDividend % (s.reg i).toNat < (s.reg i).toNat := Nat.mod_lt _ (Nat.pos_of_ne_zero hd)
    refine ⟨_, _, (Nat.div_add_mod' s.unsignedDividend _).symm, hm, by simp, ?_, by simp, noStore_wideResult s _ _ _⟩
    rw [State.advance_reg, State.wideResult_reg_one, BitVec.toNat_ofNat, Nat.mod_eq_of_lt (hm.trans (s.reg i).isLt)]

/-- Settles O35: the quotient and remainder are `Int.tdiv` and `Int.tmod`, and the remainder, nearer to 0 than the divisor,
fits x[1]. -/
theorem signedDivideRule : Obligations.SignedDivideRule := by
  refine registerRule_of_guard1 (fun _ => rfl) rfl exec_idiv fun i s => ?_
  simp only [← State.signedDividend_eq]
  by_cases h : s.reg i = 0#32
  · rw [if_pos h, if_pos h]
    exact noStore_raise s _ _
  · have hd : (s.reg i).toInt ≠ 0 := fun e => h (BitVec.eq_of_toInt_eq e)
    rw [if_neg h, if_neg h]
    have hm := abs_tmod_lt s.signedDividend hd
    refine ⟨_, _, (Int.tdiv_mul_add_tmod _ _).symm, hm, Int.tmod_nonneg _, tmod_nonpos _, by simp, ?_, by simp,
      noStore_wideResult s _ _ _⟩
    rw [State.advance_reg, State.wideResult_reg_one, toInt_ofInt_of_abs_lt (s.reg i) (by decide) hm]

end Sys2Proof.Machine
end

section
/-!
PROOFS. Bitwise operations (O36 to O39). First what the model's arithmetic of shifts and rotates does to the bits of a word, and
the list of a word's 1 bits; then each instruction's equation of `exec`, and its rule by the guard rules.
-/

namespace Sys2Proof.Machine

/-! ## Shifts as arithmetic -/

theorem ofNat_toNat_mul_two_pow {w : Nat} (v : BitVec w) (c : Nat) : BitVec.ofNat w (v.toNat * 2 ^ c) = v <<< c :=
  BitVec.eq_of_toNat_eq (by rw [BitVec.toNat_ofNat, BitVec.toNat_shiftLeft, Nat.shiftLeft_eq])

theorem ofNat_toNat_div_two_pow {w : Nat} (v : BitVec w) (c : Nat) : BitVec.ofNat w (v.toNat / 2 ^ c) = v >>> c := by
  apply BitVec.eq_of_toNat_eq
  rw [BitVec.toNat_ofNat, BitVec.toNat_ushiftRight, Nat.shiftRight_eq_div_pow]
  exact Nat.mod_eq_of_lt ((Nat.div_le_self _ _).trans_lt v.isLt)

/-- The zero that R244 gives for a count of 32 or more is what the shift gives there. -/
theorem shiftLeft_eq_hShiftLeft (v : Word) (c : Nat) : shiftLeft v c = v <<< c := by
  unfold shiftLeft
  split
  · exact (BitVec.shiftLeft_eq_zero ‹_›).symm
  · exact ofNat_toNat_mul_two_pow v c

/-- The zero that R245 gives for a count of 32 or more is what the shift gives there. -/
theorem shiftRight_eq_hShiftRight (v : Word) (c : Nat) : shiftRight v c = v >>> c := by
  unfold shiftRight
  split
  · exact (BitVec.ushiftRight_eq_zero ‹_›).symm
  · exact ofNat_toNat_div_two_pow v c

theorem getLsbD_shiftLeft_word (v : Word) (c : Nat) {k : Nat} (hk : k < 32) :
    (shiftLeft v c).getLsbD k = (decide (c ≤ k) && v.getLsbD (k - c)) := by
  rw [shiftLeft_eq_hShiftLeft, BitVec.getLsbD_shiftLeft, ← decide_not]
  simp only [hk, Nat.not_lt, decide_true, Bool.true_and]

/-- A bit that would come from 32 or above is 0. -/
theorem getLsbD_shiftRight_word (v : Word) (c k : Nat) :
    (shiftRight v c).getLsbD k = (decide (k + c < 32) && v.getLsbD (k + c)) := by
  rw [shiftRight_eq_hShiftRight, BitVec.getLsbD_ushiftRight, Nat.add_comm c k]
  by_cases h : k + c < 32
  · simp [h]
  · simp [h, BitVec.getLsbD_of_ge v (k + c) (Nat.not_lt.mp h)]

/-! ## Rotates as arithmetic -/

/-- Shifted apart by the width or more, two copies of a word share no bit. -/
theorem shiftLeft_and_ushiftRight_eq_zero {w c e : Nat} (v : BitVec w) (h : w ≤ c + e) : v <<< c &&& v >>> e = 0#w := by
  apply BitVec.eq_of_getLsbD_eq
  intro k hk
  rw [BitVec.getLsbD_and, BitVec.getLsbD_shiftLeft, BitVec.getLsbD_ushiftRight, BitVec.getLsbD_zero]
  by_cases hc : k < c
  · simp [hc]
  · simp [BitVec.getLsbD_of_ge v (e + k) (by omega)]

/-- The two parts of a rotate share no bit, so their sum is their union (R246). -/
theorem rotateLeft_mod_eq (v : Word) (n : Nat) : rotateLeft v (n % 32) = v.rotateLeft n := by
  rw [rotateLeft, BitVec.ofNat_add, ofNat_toNat_mul_two_pow, ofNat_toNat_div_two_pow, BitVec.rotateLeft_def]
  exact BitVec.add_eq_or_of_and_eq_zero _ _ (shiftLeft_and_ushiftRight_eq_zero v (by omega))

/-- The two parts of a rotate share no bit, so their sum is their union (R247). -/
theorem rotateRight_mod_eq (v : Word) (n : Nat) : rotateRight v (n % 32) = v.rotateRight n := by
  rw [rotateRight, BitVec.ofNat_add, ofNat_toNat_mul_two_pow, ofNat_toNat_div_two_pow, BitVec.rotateRight_def]
  refine BitVec.add_eq_or_of_and_eq_zero _ _ ?_
  rw [BitVec.and_comm]
  exact shiftLeft_and_ushiftRight_eq_zero v (by omega)

/-- `i8 AND 31` is the count modulo 32. -/
theorem rotateCount_eq (b : Byte) : rotateCount b = b.toNat % 32 :=
  (BitVec.toNat_and b 31#8).trans (Nat.and_two_pow_sub_one_eq_mod b.toNat 5)

/-- ROL moves bit `k` up by the count, modulo 32. -/
theorem getLsbD_rotateLeft_word (v : Word) (b : Byte) {k : Nat} (hk : k < 32) :
    (rotateLeft v (rotateCount b)).getLsbD ((k + b.toNat) % 32) = v.getLsbD k := by
  rw [rotateCount_eq, rotateLeft_mod_eq, BitVec.getLsbD_rotateLeft]
  by_cases h : k + b.toNat % 32 < 32
  · have hto : (k + b.toNat) % 32 = k + b.toNat % 32 := by omega
    simp [hto, h]
  · have hto : (k + b.toNat) % 32 = k + b.toNat % 32 - 32 := by omega
    have hlow : k + b.toNat % 32 - 32 < b.toNat % 32 := by omega
    have hback : 32 - b.toNat % 32 + (k + b.toNat % 32 - 32) = k := by omega
    simp [hto, hlow, hback]

/-- ROR brings bit `k` down from the count above it, modulo 32. -/
theorem getLsbD_rotateRight_word (v : Word) (b : Byte) {k : Nat} (hk : k < 32) :
    (rotateRight v (rotateCount b)).getLsbD k = v.getLsbD ((k + b.toNat) % 32) := by
  rw [rotateCount_eq, rotateRight_mod_eq, BitVec.getLsbD_rotateRight]
  by_cases h : k < 32 - b.toNat % 32
  · have hfrom : (k + b.toNat) % 32 = b.toNat % 32 + k := by omega
    simp [hfrom, h]
  · have hfrom : (k + b.toNat) % 32 = k - (32 - b.toNat % 32) := by omega
    simp [hfrom, h, hk]

/-! ## The 1 bits of a word -/

@[simp] theorem mem_setBits {v : Word} {k : Nat} : k ∈ setBits v ↔ v.getLsbD k = true := by
  simpa [setBits] using BitVec.lt_of_getLsbD

theorem setBits_pairwise_lt (v : Word) : (setBits v).Pairwise (· < ·) := List.pairwise_lt_range.filter _

theorem setBits_eq_nil_iff {v : Word} : setBits v = [] ↔ v = 0#32 := by
  constructor
  · intro h
    apply BitVec.eq_of_getLsbD_eq
    intro k _
    have hk : k ∉ setBits v := by simp [h]
    simpa using hk
  · rintro rfl
    rfl

/-- The first of the 1 bits is the lowest. -/
theorem setBits_head_isLeast {v : Word} {m : Nat} (h : (setBits v).head? = some m) :
    v.getLsbD m = true ∧ ∀ k, v.getLsbD k = true → m ≤ k := by
  obtain ⟨ks, hks⟩ := List.head?_eq_some_iff.mp h
  have hlt : ∀ k ∈ ks, m < k := (List.pairwise_cons.mp (hks ▸ setBits_pairwise_lt v)).1
  simp only [← mem_setBits, hks, List.mem_cons]
  exact ⟨.inl trivial, fun k hk => hk.elim (fun e => e.ge) fun hmem => (hlt k hmem).le⟩

/-- The last of the 1 bits is the highest. -/
theorem setBits_getLast_isGreatest {v : Word} {m : Nat} (h : (setBits v).getLast? = some m) :
    v.getLsbD m = true ∧ ∀ k, v.getLsbD k = true → k ≤ m := by
  obtain ⟨ks, hks⟩ := List.getLast?_eq_some_iff.mp h
  obtain ⟨-, -, hlt⟩ := List.pairwise_append.mp (hks ▸ setBits_pairwise_lt v)
  simp only [← mem_setBits, hks, List.mem_append, List.mem_singleton]
  exact ⟨.inr trivial, fun k hk => hk.elim (fun hmem => (hlt k hmem m (List.mem_singleton_self m)).le) fun e => e.le⟩

theorem setBits_length_eq_card (v : Word) :
    (setBits v).length = ((Finset.range 32).filter fun k => v.getLsbD k = true).card := by
  have hset : (setBits v).toFinset = (Finset.range 32).filter fun k => v.getLsbD k = true := by
    ext k; simp [setBits]
  rw [← hset, List.toFinset_card_of_nodup ((setBits_pairwise_lt v).imp fun h => h.ne)]

theorem setBits_length_le (v : Word) : (setBits v).length ≤ 32 := by
  simpa [setBits] using List.length_filter_le v.getLsbD (List.range 32)

/-! ## AND, OR, XOR and NOT -/

theorem exec_and (d e : Byte) (s : State) :
    exec (.and d e) s = guard2 d e len3 s fun i j => s.result i (s.reg i &&& s.reg j) := rfl

theorem exec_or (d e : Byte) (s : State) :
    exec (.or d e) s = guard2 d e len3 s fun i j => s.result i (s.reg i ||| s.reg j) := rfl

theorem exec_xor (d e : Byte) (s : State) :
    exec (.xor d e) s = guard2 d e len3 s fun i j => s.result i (s.reg i ^^^ s.reg j) := rfl

theorem exec_not (r : Byte) (s : State) :
    exec (.not r) s = guard1 r len3 s fun i => s.result i (s.reg i ^^^ BitVec.allOnes 32) := rfl

theorem and_rule :
    PairRule .and [0x20#8] fun d e s t => ∃ v, Results s t d v ∧
      ∀ k, v.getLsbD k = ((s.reg d).getLsbD k && (s.reg e).getLsbD k) :=
  pairRule_of_guard2 (fun _ _ => rfl) rfl exec_and fun i _ s =>
    ⟨_, results_result s i _ _, fun _ => BitVec.getLsbD_and⟩

theorem or_rule :
    PairRule .or [0x21#8] fun d e s t => ∃ v, Results s t d v ∧
      ∀ k, v.getLsbD k = ((s.reg d).getLsbD k || (s.reg e).getLsbD k) :=
  pairRule_of_guard2 (fun _ _ => rfl) rfl exec_or fun i _ s =>
    ⟨_, results_result s i _ _, fun _ => BitVec.getLsbD_or⟩

theorem xor_rule :
    PairRule .xor [0x22#8] fun d e s t => ∃ v, Results s t d v ∧
      ∀ k, v.getLsbD k = ((s.reg d).getLsbD k ^^ (s.reg e).getLsbD k) :=
  pairRule_of_guard2 (fun _ _ => rfl) rfl exec_xor fun i _ s =>
    ⟨_, results_result s i _ _, fun _ => BitVec.getLsbD_xor⟩

theorem not_rule :
    RegisterRule .not [0xF7#8, 0x02#8] [] fun r s t => ∃ v, Results s t r v ∧
      ∀ k, k < 32 → v.getLsbD k = !(s.reg r).getLsbD k :=
  registerRule_of_guard1 (fun _ => rfl) rfl exec_not fun i s =>
    ⟨_, results_result s i _ _, fun k hk => by rw [BitVec.xor_allOnes, BitVec.getLsbD_not, decide_eq_true hk, Bool.true_and]⟩

/-- Settles O36: each instruction is one `State.result`, of a word operation that acts on each bit alone. -/
theorem logicRules : Obligations.LogicRules :=
  ⟨and_rule, or_rule, xor_rule, not_rule⟩

/-! ## SHL and SHR -/

theorem exec_shl (c r : Byte) (s : State) :
    exec (.shl r c) s = guard1 r len3 s fun i => s.result i (shiftLeft (s.reg i) c.toNat) := rfl

theorem exec_shr (c r : Byte) (s : State) :
    exec (.shr r c) s = guard1 r len3 s fun i => s.result i (shiftRight (s.reg i) c.toNat) := rfl

theorem shl_rule (c : Byte) :
    RegisterRule (.shl · c) [0x23#8] [c] fun r s t => ∃ v, Results s t r v ∧
      ∀ k, k < 32 → v.getLsbD k = (decide (c.toNat ≤ k) && (s.reg r).getLsbD (k - c.toNat)) :=
  registerRule_of_guard1 (fun _ => rfl) rfl (exec_shl c) fun i s =>
    ⟨_, results_result s i _ _, fun _ hk => getLsbD_shiftLeft_word (s.reg i) c.toNat hk⟩

theorem shr_rule (c : Byte) :
    RegisterRule (.shr · c) [0x24#8] [c] fun r s t => ∃ v, Results s t r v ∧
      ∀ k, k < 32 → v.getLsbD k = (decide (k + c.toNat < 32) && (s.reg r).getLsbD (k + c.toNat)) :=
  registerRule_of_guard1 (fun _ => rfl) rfl (exec_shr c) fun i s =>
    ⟨_, results_result s i _ _, fun k _ => getLsbD_shiftRight_word (s.reg i) c.toNat k⟩

/-- Settles O37: each instruction is one `State.result`, of a shift by the whole count. -/
theorem shiftRules : Obligations.ShiftRules :=
  ⟨shl_rule, shr_rule⟩

/-! ## ROL and ROR -/

theorem exec_rol (c r : Byte) (s : State) :
    exec (.rol r c) s = guard1 r len3 s fun i => s.result i (rotateLeft (s.reg i) (rotateCount c)) := rfl

theorem exec_ror (c r : Byte) (s : State) :
    exec (.ror r c) s = guard1 r len3 s fun i => s.result i (rotateRight (s.reg i) (rotateCount c)) := rfl

theorem rol_rule (c : Byte) :
    RegisterRule (.rol · c) [0x25#8] [c] fun r s t => ∃ v, Results s t r v ∧
      ∀ k, k < 32 → v.getLsbD ((k + c.toNat) % 32) = (s.reg r).getLsbD k :=
  registerRule_of_guard1 (fun _ => rfl) rfl (exec_rol c) fun i s =>
    ⟨_, results_result s i _ _, fun _ hk => getLsbD_rotateLeft_word (s.reg i) c hk⟩

theorem ror_rule (c : Byte) :
    RegisterRule (.ror · c) [0x26#8] [c] fun r s t => ∃ v, Results s t r v ∧
      ∀ k, k < 32 → v.getLsbD k = (s.reg r).getLsbD ((k + c.toNat) % 32) :=
  registerRule_of_guard1 (fun _ => rfl) rfl (exec_ror c) fun i s =>
    ⟨_, results_result s i _ _, fun _ hk => getLsbD_rotateRight_word (s.reg i) c hk⟩

/-- Settles O38: each instruction is one `State.result`, of the sum of two shifts that share no bit. -/
theorem rotateRules : Obligations.RotateRules :=
  ⟨rol_rule, ror_rule⟩

/-! ## BSF, BSR and POPCNT -/

/-- What a bit scan does with the index it finds, or with none (R248, R249). -/
def State.scanned (s : State) (i : Fin 8) (found : Option Nat) : State :=
  match found with
  | none => s.setZF true
  | some k => (s.setZF false).setReg i (BitVec.ofNat 32 k)

theorem exec_bsf (d e : Byte) (s : State) :
    exec (.bsf d e) s = guard2 d e len4 s fun i j => s.scanned i (setBits (s.reg j)).head? := rfl

theorem exec_bsr (d e : Byte) (s : State) :
    exec (.bsr d e) s = guard2 d e len4 s fun i j => s.scanned i (setBits (s.reg j)).getLast? := rfl

theorem exec_popcnt (d e : Byte) (s : State) :
    exec (.popcnt d e) s = guard2 d e len4 s fun i j =>
      (s.setReg i (BitVec.ofNat 32 (setBits (s.reg j)).length)).zeroFlag (s.reg j) := rfl

/-- A scan that finds no bit, then the pc advance: ZF alone is written. -/
theorem scanned_none_effect (s : State) (i : Fin 8) (len : Word) :
    let t := (s.scanned i none).advance s len
    t.zf = true ∧ NoStore s t [] [zfBit] [] :=
  ⟨by simp [State.scanned], ((NoStore.refl s [] [zfBit]).setZF (by simp) true).advance _ _⟩

/-- A scan that finds a bit, then the pc advance: its index, below 32, is the register's number. -/
theorem scanned_some_effect (s : State) (i : Fin 8) {m : Nat} (hm : m < 32) (len : Word) :
    let t := (s.scanned i (some m)).advance s len
    t.zf = false ∧ NoStore s t [i] [zfBit] [] ∧ (t.reg i).toNat = m := by
  refine ⟨by simp [State.scanned], (((NoStore.refl s [i] [zfBit]).setZF (by simp) false).setReg (by simp) _).advance _ _,
    ?_⟩
  simp only [State.scanned, State.advance_reg, State.reg_setReg_self, BitVec.toNat_ofNat]
  omega

/-- A scan of `v` that finds nothing only when `v` is 0, and else a 1 bit that `best` holds of, obeys a bit scan's rule. -/
theorem scanned_effect (s : State) (i : Fin 8) (v len : Word) (found : Option Nat) (best : Nat → Prop)
    (hnone : found = none ↔ v = 0#32) (hsome : ∀ m, found = some m → v.getLsbD m = true ∧ best m) :
    let t := (s.scanned i found).advance s len
    if v = 0#32 then t.zf = true ∧ NoStore s t [] [zfBit] []
    else t.zf = false ∧ NoStore s t [i] [zfBit] [] ∧ v.getLsbD (t.reg i).toNat = true ∧ best (t.reg i).toNat := by
  cases found with
  | none =>
    rw [if_pos (hnone.mp rfl)]
    exact scanned_none_effect s i len
  | some m =>
    rw [if_neg fun hv => Option.some_ne_none m (hnone.mpr hv)]
    obtain ⟨hbit, hbest⟩ := hsome m rfl
    obtain ⟨hzf, hframe, hreg⟩ := scanned_some_effect s i (BitVec.lt_of_getLsbD hbit) len
    exact ⟨hzf, hframe, hreg.symm ▸ hbit, hreg.symm ▸ hbest⟩

theorem bsf_rule :
    PairRule .bsf [0x0F#8, 0xBC#8] fun d e s t =>
      if s.reg e = 0#32 then t.zf = true ∧ NoStore s t [] [zfBit] []
      else t.zf = false ∧ NoStore s t [d] [zfBit] [] ∧ (s.reg e).getLsbD (t.reg d).toNat = true ∧
        ∀ k, (s.reg e).getLsbD k = true → (t.reg d).toNat ≤ k :=
  pairRule_of_guard2 (fun _ _ => rfl) rfl exec_bsf fun i j s =>
    scanned_effect s i (s.reg j) len4 _ (fun m => ∀ k, (s.reg j).getLsbD k = true → m ≤ k)
      (List.head?_eq_none_iff.trans setBits_eq_nil_iff) fun _ => setBits_head_isLeast

theorem bsr_rule :
    PairRule .bsr [0x0F#8, 0xBD#8] fun d e s t =>
      if s.reg e = 0#32 then t.zf = true ∧ NoStore s t [] [zfBit] []
      else t.zf = false ∧ NoStore s t [d] [zfBit] [] ∧ (s.reg e).getLsbD (t.reg d).toNat = true ∧
        ∀ k, (s.reg e).getLsbD k = true → k ≤ (t.reg d).toNat :=
  pairRule_of_guard2 (fun _ _ => rfl) rfl exec_bsr fun i j s =>
    scanned_effect s i (s.reg j) len4 _ (fun m => ∀ k, (s.reg j).getLsbD k = true → k ≤ m)
      (List.getLast?_eq_none_iff.trans setBits_eq_nil_iff) fun _ => setBits_getLast_isGreatest

theorem popcnt_rule :
    PairRule .popcnt [0x0F#8, 0xB8#8] fun d e s t =>
      (t.reg d).toNat = ((Finset.range 32).filter fun k => (s.reg e).getLsbD k = true).card ∧
      t.zf = decide (s.reg e = 0#32) ∧ NoStore s t [d] [zfBit] [] := by
  refine pairRule_of_guard2 (fun _ _ => rfl) rfl exec_popcnt fun i j s =>
    ⟨?_, by simp, (((NoStore.refl s [i] [zfBit]).setReg (by simp) _).setZF (by simp) _).advance _ _⟩
  have hle := setBits_length_le (s.reg j)
  rw [State.advance_reg, State.zeroFlag_reg, State.reg_setReg_self, BitVec.toNat_ofNat, Nat.mod_eq_of_lt (by omega),
    setBits_length_eq_card]

/-- Settles O39: the list of the 1 bits rises, so its first is the lowest, its last the highest, and its length their number. -/
theorem bitScanAndCountRules : Obligations.BitScanAndCountRules :=
  ⟨bsf_rule, bsr_rule, popcnt_rule⟩

end Sys2Proof.Machine
end

section
/-!
PROOFS. Comparison (O40). First what `State.compareFlags` writes, which is ZF and CF and nothing else; then each instruction's
equation of `exec`, and its rule by the guard rules.
-/

namespace Sys2Proof.Machine

/-! ## What a comparison writes -/

@[simp] theorem State.zf_compareFlags (s : State) (a b : Nat) : (s.compareFlags a b).zf = decide (a = b) := by
  rw [State.compareFlags, State.zf_setCF, State.zf_setZF]

@[simp] theorem State.cf_compareFlags (s : State) (a b : Nat) : (s.compareFlags a b).cf = decide (a < b) :=
  State.cf_setCF _ _

theorem NoStore.compareFlags {s t : State} {rs : List (Fin 8)} {bits : List Nat} {new : List Event}
    (h : NoStore s t rs bits new) (hz : zfBit ∈ bits) (hc : cfBit ∈ bits) (a b : Nat) :
    NoStore s (t.compareFlags a b) rs bits new :=
  (h.setZF hz _).setCF hc _

/-- A comparison of two words, then the pc advance: equal numbers are equal words. -/
theorem compareFlags_effect (s : State) (a b len : Word) :
    let t := (s.compareFlags a.toNat b.toNat).advance s len
    t.zf = decide (a = b) ∧ t.cf = decide (a.toNat < b.toNat) ∧ NoStore s t [] [zfBit, cfBit] [] := by
  refine ⟨?_, ?_, ((NoStore.refl s [] [zfBit, cfBit]).compareFlags (by simp) (by simp) _ _).advance _ _⟩
  · rw [State.advance_zf, State.zf_compareFlags, decide_eq_decide]
    exact BitVec.toNat_inj
  · rw [State.advance_cf, State.cf_compareFlags]

/-! ## CMP and CMPI -/

theorem exec_cmp (d e : Byte) (s : State) :
    exec (.cmp d e) s = guard2 d e len3 s fun i j => s.compareFlags (s.reg i).toNat (s.reg j).toNat := rfl

theorem exec_cmpi (v : Word) (r : Byte) (s : State) :
    exec (.cmpi r v) s = guard1 r len6 s fun i => s.compareFlags (s.reg i).toNat v.toNat := rfl

theorem cmp_rule :
    PairRule .cmp [0x18#8] fun d e s t =>
      t.zf = decide (s.reg d = s.reg e) ∧ t.cf = decide ((s.reg d).toNat < (s.reg e).toNat) ∧
        NoStore s t [] [zfBit, cfBit] [] :=
  pairRule_of_guard2 (fun _ _ => rfl) rfl exec_cmp fun i j s => compareFlags_effect s (s.reg i) (s.reg j) _

theorem cmpi_rule (v : Word) :
    RegisterRule (.cmpi · v) [0x19#8] (bytes32 v) fun r s t =>
      t.zf = decide (s.reg r = v) ∧ t.cf = decide ((s.reg r).toNat < v.toNat) ∧ NoStore s t [] [zfBit, cfBit] [] :=
  registerRule_of_guard1 (fun _ => rfl) rfl (exec_cmpi v) fun i s => compareFlags_effect s (s.reg i) v _

/-- Settles O40: each instruction is one comparison, of a register with a register or with the immediate. -/
theorem compareRules : Obligations.CompareRules :=
  ⟨cmp_rule, cmpi_rule⟩

end Sys2Proof.Machine
end

section
/-!
PROOFS. Reports and the interrupt flag (O55). First what a write of one flag bit is; then each instruction's equation of `exec`, and
its rule: HLT and UD2 are one report (`noStore_raise`), CLI, CLI.L, STI and STI.L one flag write.
-/

namespace Sys2Proof.Machine

/-- A write of one flag bit, then the pc advance (R342 to R345). -/
theorem setFlag_effect (s : State) {k : Nat} (hk : k < 32) (b : Bool) (len : Word) :
    let t := (s.setFlag k b).advance s len
    t.flag k = b ∧ NoStore s t [] [k] [] := by
  refine ⟨?_, ((NoStore.refl s [] [k]).setFlag (by simp) hk b).advance _ _⟩
  rw [State.advance_flag, State.flag_setFlag s hk, if_pos rfl]

/-! ## HLT and UD2 -/

theorem exec_hlt (s : State) : exec .hlt s = .next ((s.raise (.halt s.pc)).advance s len1) := rfl

theorem exec_ud2 (s : State) : exec .ud2 s = .next ((s.raise (.ud s.pc)).advance s len2) := rfl

theorem hlt_rule : Advances .hlt [0xF4#8] fun s t => NoStore s t [] [] [.diag (.halt s.pc)] :=
  advances_of rfl rfl exec_hlt fun s => noStore_raise s _ _

theorem ud2_rule : Advances .ud2 [0x0F#8, 0x0B#8] fun s t => NoStore s t [] [] [.diag (.ud s.pc)] :=
  advances_of rfl rfl exec_ud2 fun s => noStore_raise s _ _

/-! ## CLI, STI, CLI.L and STI.L -/

theorem exec_cli (s : State) : exec .cli s = .next ((s.setFlag 2 false).advance s len1) := rfl

theorem exec_sti (s : State) : exec .sti s = .next ((s.setFlag 2 true).advance s len1) := rfl

theorem exec_cliL (s : State) : exec .cliL s = .next ((s.setFlag 2 false).advance s len1) := rfl

theorem exec_stiL (s : State) : exec .stiL s = .next ((s.setFlag 9 true).advance s len1) := rfl

/-- An instruction of one byte whose meaning is a write of one flag bit. -/
theorem flagWrite_advances {i : Instr} {opcode : Byte} {k : Nat} {b : Bool} (hk : k < 32) (henc : encode i = [opcode])
    (hexec : ∀ s, exec i s = .next ((s.setFlag k b).advance s len1)) :
    Advances i [opcode] fun s t => t.flag k = b ∧ NoStore s t [] [k] [] :=
  advances_of henc rfl hexec fun s => setFlag_effect s hk b _

theorem cli_rule : Advances .cli [0x3C#8] fun s t => t.flag 2 = false ∧ NoStore s t [] [2] [] :=
  flagWrite_advances (by decide) rfl exec_cli

theorem sti_rule : Advances .sti [0x3D#8] fun s t => t.flag 2 = true ∧ NoStore s t [] [2] [] :=
  flagWrite_advances (by decide) rfl exec_sti

theorem cliL_rule : Advances .cliL [0xFA#8] fun s t => t.flag 2 = false ∧ NoStore s t [] [2] [] :=
  flagWrite_advances (by decide) rfl exec_cliL

theorem stiL_rule : Advances .stiL [0xFB#8] fun s t => t.flag 9 = true ∧ NoStore s t [] [9] [] :=
  flagWrite_advances (by decide) rfl exec_stiL

/-- Settles O55: each instruction is one report or one flag write, then the pc advance. -/
theorem reportAndInterruptFlagRules : Obligations.ReportAndInterruptFlagRules :=
  ⟨hlt_rule, ud2_rule, cli_rule, sti_rule, cliL_rule, stiL_rule⟩

end Sys2Proof.Machine
end

section
/-!
PROOFS. Encoding (O1 to O5). The decoder reads back every encoding (O1). Conversely each entry of the maps reads an instruction whose
encoding is the very bytes read (`BeginsWith`), from which O2 follows; since no encoding is the beginning of another (by O1), bytes
that agree on the first six decode alike (O3).
-/

namespace Sys2Proof

/-! ## Decoding an encoding -/

@[simp] theorem byteAt_cons_zero (b : Byte) (w : List Byte) : byteAt (b :: w) 0 = b := rfl
@[simp] theorem byteAt_cons_succ (b : Byte) (w : List Byte) (k : Nat) : byteAt (b :: w) (k + 1) = byteAt w k := rfl

/-- The opcodes that hold a register are entries of the primary map, whatever the register (R115, R125). -/
theorem primaryMap_legacyOpcode (r : BitVec 3) :
    primaryMap (legacyOpcode 0b01010#5 r) = some (formatLR .push16) ∧
    primaryMap (legacyOpcode 0b01011#5 r) = some (formatLR .pop16) ∧
    primaryMap (legacyOpcode 0b10110#5 r) = some (formatLRI8 .mov8) ∧
    primaryMap (legacyOpcode 0b10111#5 r) = some (formatLRI16 .mov16) := by
  have hr : r = 0#3 ∨ r = 1#3 ∨ r = 2#3 ∨ r = 3#3 ∨ r = 4#3 ∨ r = 5#3 ∨ r = 6#3 ∨ r = 7#3 := by revert r; decide
  rcases hr with rfl | rfl | rfl | rfl | rfl | rfl | rfl | rfl <;> exact ⟨rfl, rfl, rfl, rfl⟩

/-- A first byte of the primary map is no escape byte, and is read by its entry. -/
theorem decode_of_primaryMap {w : List Byte} {c : List Byte → Instr} (h : primaryMap (byteAt w 0) = some c) :
    decode w = .instr (c w) := by
  have hescape : ∀ b ∈ [0x0F#8, 0xF3#8, 0xF7#8, 0x8E#8], primaryMap b ≠ some c := by
    simp [primaryMap, legacyRegisterMap]
  unfold decode
  simp only
  split
  case h_5 => rw [h, Decoded.ofEntry]
  all_goals
    rename_i hb
    exact absurd (hb ▸ h) (hescape _ (by simp))

/-- The bytes of an instruction's encoding decode to it (R138). -/
theorem decode_encode {i : Instr} (h : i.WellFormed) (rest : List Byte) : decode (encode i ++ rest) = .instr i := by
  cases i with
  | push16 r =>
    obtain ⟨hentry, _⟩ := primaryMap_legacyOpcode r
    exact (decode_of_primaryMap (w := encode (.push16 r) ++ rest) hentry).trans
      (congrArg (Decoded.instr ∘ Instr.push16) (lowField_legacyOpcode _ r))
  | pop16 r =>
    obtain ⟨_, hentry, _⟩ := primaryMap_legacyOpcode r
    exact (decode_of_primaryMap (w := encode (.pop16 r) ++ rest) hentry).trans
      (congrArg (Decoded.instr ∘ Instr.pop16) (lowField_legacyOpcode _ r))
  | mov8 r b =>
    obtain ⟨_, _, hentry, _⟩ := primaryMap_legacyOpcode r
    exact (decode_of_primaryMap (w := encode (.mov8 r b) ++ rest) hentry).trans
      (congrArg (fun r => Decoded.instr (.mov8 r b)) (lowField_legacyOpcode _ r))
  | mov16 r v =>
    obtain ⟨_, _, _, hentry⟩ := primaryMap_legacyOpcode r
    exact (decode_of_primaryMap (w := encode (.mov16 r v) ++ rest) hentry).trans
      (congrArg₂ (fun r v => Decoded.instr (.mov16 r v)) (lowField_legacyOpcode _ r) (le16_bytes v))
  | movseg k r =>
    have hk : selectorFieldOk k = true := h
    simp [encode, decode, map8E, Decoded.ofEntry, formatS, selectorField_segmentByte, lowField_segmentByte, hk]
  | _ =>
    simp [encode, bytes32, bytes16, decode, primaryMap, map0F, mapF3, mapF7, Decoded.ofEntry, formatN, formatR, formatRR,
      formatRI, formatA, formatJ16, formatPRR, formatPJ, formatG, dwordAt, halfAt, le32_bytes, le16_bytes]

/-- Settles O1: constructor by constructor, the opcode finds its entry and the entry puts the operands together again. -/
theorem decodeEncodeRoundTrip : Obligations.DecodeEncodeRoundTrip :=
  fun _ rest h => decode_encode h rest

/-! ## Encoding what was decoded -/

/-- The first `n` bytes, a byte the list does not hold counting as 0. -/
def firstBytes (w : List Byte) (n : Nat) : List Byte := (List.range n).map (byteAt w)

/-- `i` is an instruction of the machine, and its encoding is what `w` begins with. -/
def BeginsWith (w : List Byte) (i : Instr) : Prop := i.WellFormed ∧ encode i = firstBytes w i.length

theorem Instr.length_bounds (i : Instr) : 1 ≤ i.length ∧ i.length ≤ 6 := by
  cases i <;> exact ⟨Nat.le_of_ble_eq_true rfl, Nat.le_of_ble_eq_true rfl⟩

/-- A legacy opcode is its upper five bits and its register field. -/
theorem legacyOpcode_lowField {b : Byte} {high : BitVec 5} (h : b.extractLsb' 3 5 = high) :
    legacyOpcode high (lowField b) = b := by
  subst h; revert b; decide

theorem legacyRegisterMap_beginsWith {b : Byte} {c : List Byte → Instr} (h : legacyRegisterMap b = some c)
    {w : List Byte} (hb : byteAt w 0 = b) : BeginsWith w (c w) := by
  unfold legacyRegisterMap at h
  split at h
  case h_5 => cases h
  all_goals
    rename_i hhigh
    cases h
    refine ⟨rfl, ?_⟩
    simp [firstBytes, Instr.length, List.range_succ, encode, formatLR, formatLRI8, formatLRI16, halfAt, bytes16_le16, hb,
      legacyOpcode_lowField hhigh]

/-- An entry of the primary map reads the instruction that the bytes encode. -/
theorem primaryMap_beginsWith {b : Byte} {c : List Byte → Instr} (h : primaryMap b = some c) {w : List Byte}
    (hb : byteAt w 0 = b) : BeginsWith w (c w) := by
  unfold primaryMap at h
  split at h
  case h_59 => exact legacyRegisterMap_beginsWith h hb
  all_goals
    cases h
    refine ⟨rfl, ?_⟩
    simp [firstBytes, Instr.length, List.range_succ, encode, formatN, formatR, formatRR, formatRI, formatA, formatJ16,
      dwordAt, halfAt, bytes32_le32, bytes16_le16, hb]

theorem map0F_beginsWith {b : Byte} {c : List Byte → Instr} (h : map0F b = some c) {w : List Byte}
    (h0 : byteAt w 0 = 0x0F#8) (h1 : byteAt w 1 = b) : BeginsWith w (c w) := by
  unfold map0F at h
  split at h
  case h_10 => cases h
  all_goals
    cases h
    refine ⟨rfl, ?_⟩
    simp [firstBytes, Instr.length, List.range_succ, encode, formatN, formatPRR, formatPJ, halfAt, bytes16_le16, h0, h1]

theorem mapF3_beginsWith {b : Byte} {c : List Byte → Instr} (h : mapF3 b = some c) {w : List Byte}
    (h0 : byteAt w 0 = 0xF3#8) (h1 : byteAt w 1 = b) : BeginsWith w (c w) := by
  unfold mapF3 at h
  split at h
  case h_3 => cases h
  all_goals
    cases h
    refine ⟨rfl, ?_⟩
    simp [firstBytes, Instr.length, List.range_succ, encode, formatN, h0, h1]

theorem mapF7_beginsWith {b : Byte} {c : List Byte → Instr} (h : mapF7 b = some c) {w : List Byte}
    (h0 : byteAt w 0 = 0xF7#8) (h1 : byteAt w 1 = b) : BeginsWith w (c w) := by
  unfold mapF7 at h
  split at h
  case h_7 => cases h
  all_goals
    cases h
    refine ⟨rfl, ?_⟩
    simp [firstBytes, Instr.length, List.range_succ, encode, formatG, h0, h1]

/-- A byte after 0x8E is two ignored bits, the selector field and the register (R122). -/
theorem segment_fields (b : Byte) : b = b.extractLsb' 6 2 ++ selectorField b ++ lowField b := by
  revert b; decide

theorem Decoded.ofEntry_eq_instr {f : Option (List Byte → Instr)} {w : List Byte} {e : DecodeError} {i : Instr}
    (h : Decoded.ofEntry f w e = .instr i) : ∃ c, f = some c ∧ i = c w := by
  cases f with
  | none => cases h
  | some c => exact ⟨c, rfl, (Decoded.instr.inj h).symm⟩

theorem Decoded.ofEntry_eq_error {f : Option (List Byte → Instr)} {w : List Byte} {e e' : DecodeError}
    (h : Decoded.ofEntry f w e = .error e') : e' = e := by
  cases f with
  | none => exact (Decoded.error.inj h).symm
  | some c => cases h

/-- What bytes that decode to an instruction are: its encoding, or 0x8E and a byte that holds MOVSEG's two fields. -/
theorem decode_eq_instr {w : List Byte} {i : Instr} (h : decode w = .instr i) :
    BeginsWith w i ∨
      (byteAt w 0 = 0x8E#8 ∧ selectorFieldOk (selectorField (byteAt w 1)) = true ∧ i = formatS .movseg w) := by
  unfold decode at h
  simp only at h
  split at h
  all_goals
    rename_i h0
    obtain ⟨c, hc, rfl⟩ := Decoded.ofEntry_eq_instr h
  case h_1 => exact .inl (map0F_beginsWith hc h0 rfl)
  case h_2 => exact .inl (mapF3_beginsWith hc h0 rfl)
  case h_3 => exact .inl (mapF7_beginsWith hc h0 rfl)
  case h_4 =>
    unfold map8E at hc
    split at hc
    · cases hc
      exact .inr ⟨h0, ‹_›, rfl⟩
    · cases hc
  case h_5 => exact .inl (primaryMap_beginsWith hc rfl)

theorem BeginsWith.byteAt_eq {w : List Byte} {i : Instr} (h : BeginsWith w i) {n : Nat} (hn : n < i.length) :
    byteAt w n = (encode i).getD n 0#8 := by
  rw [h.2]
  simp [firstBytes, hn]

/-- Settles O2: every entry but MOVSEG's reads an instruction whose encoding is the bytes read. -/
theorem decodedBytesAreTheEncoding : Obligations.DecodedBytesAreTheEncoding := by
  intro w i h
  rcases decode_eq_instr h with hw | ⟨h0, hk, rfl⟩
  · refine ⟨hw.1, ?_⟩
    split
    · rename_i k r
      exact ⟨hw.byteAt_eq (n := 0) (by decide : 0 < 2), 0#2, hw.byteAt_eq (n := 1) (by decide : 1 < 2)⟩
    · exact fun n hn => hw.byteAt_eq hn
  · exact ⟨hk, h0, _, segment_fields _⟩

/-! ## The bytes that matter -/

theorem firstBytes_congr {w w' : List Byte} {n : Nat} (h : ∀ k, k < n → byteAt w k = byteAt w' k) :
    firstBytes w n = firstBytes w' n :=
  List.map_congr_left fun k hk => h k (List.mem_range.mp hk)

theorem firstBytes_add (w : List Byte) (m n : Nat) : ∃ rest, firstBytes w (m + n) = firstBytes w m ++ rest := by
  rw [firstBytes, List.range_add, List.map_append]
  exact ⟨_, rfl⟩

/-- No instruction's encoding is the beginning of another's, by `decode_encode`. -/
theorem BeginsWith.unique {w : List Byte} {i j : Instr} (hi : BeginsWith w i) (hj : BeginsWith w j) : i = j := by
  wlog hle : i.length ≤ j.length generalizing i j
  · exact (this hj hi (Nat.le_of_not_le hle)).symm
  obtain ⟨rest, hrest⟩ := firstBytes_add w i.length (j.length - i.length)
  have hstart : encode j = encode i ++ rest := by
    rw [hi.2, hj.2, ← hrest, Nat.add_sub_cancel' hle]
  have hdecode := decode_encode hj.1 []
  rw [List.append_nil, hstart, decode_encode hi.1] at hdecode
  exact Decoded.instr.inj hdecode

/-- An entry that reads what the bytes encode reads the same from bytes that agree on the first six. -/
theorem entry_congr {w w' : List Byte} (h : ∀ k, k < 6 → byteAt w k = byteAt w' k) {c : List Byte → Instr}
    (hw : BeginsWith w (c w)) (hw' : BeginsWith w' (c w')) : c w = c w' := by
  refine hw.unique ⟨hw'.1, hw'.2.trans (firstBytes_congr fun k hk => (h k ?_).symm)⟩
  exact Nat.lt_of_lt_of_le hk (Instr.length_bounds _).2

theorem Decoded.ofEntry_congr {f : Option (List Byte → Instr)} {w w' : List Byte} {e : DecodeError}
    (h : ∀ c, f = some c → c w = c w') : Decoded.ofEntry f w e = Decoded.ofEntry f w' e := by
  cases f with
  | none => rfl
  | some c => exact congrArg Decoded.instr (h c rfl)

/-- Six bytes decide the decoder's answer (R110, R138). -/
theorem decode_congr {w w' : List Byte} (h : ∀ k, k < 6 → byteAt w k = byteAt w' k) : decode w = decode w' := by
  have h0 := h 0 (by decide)
  have h1 := h 1 (by decide)
  unfold decode
  simp only [← h0, ← h1]
  split
  all_goals
    rename_i hb
    refine Decoded.ofEntry_congr fun c hc => ?_
  case h_1 => exact entry_congr h (map0F_beginsWith hc hb rfl) (map0F_beginsWith hc (h0 ▸ hb) h1.symm)
  case h_2 => exact entry_congr h (mapF3_beginsWith hc hb rfl) (mapF3_beginsWith hc (h0 ▸ hb) h1.symm)
  case h_3 => exact entry_congr h (mapF7_beginsWith hc hb rfl) (mapF7_beginsWith hc (h0 ▸ hb) h1.symm)
  case h_4 =>
    unfold map8E at hc
    split at hc
    · cases hc
      rw [formatS, formatS, h1]
    · cases hc
  case h_5 => exact entry_congr h (primaryMap_beginsWith hc rfl) (primaryMap_beginsWith hc h0.symm)

theorem byteAt_take {w : List Byte} {k n : Nat} (h : k < n) : byteAt (w.take n) k = byteAt w k := by
  simp [byteAt, List.getD, List.getElem?_take_of_lt h]

/-- A decode error consumes the first byte, or the first two (R131 to R135). -/
theorem decode_eq_error {w : List Byte} {e : DecodeError} (h : decode w = .error e) :
    e.bytes = [byteAt w 0] ∨ e.bytes = [byteAt w 0, byteAt w 1] := by
  unfold decode at h
  simp only at h
  split at h
  all_goals
    rename_i h0
    cases Decoded.ofEntry_eq_error h
  case h_5 => exact .inl rfl
  all_goals exact .inr (by rw [DecodeError.bytes, h0])

/-- Settles O3: six bytes decide the answer, and each kind of answer says its length. -/
theorem decoderReadsAtMostSixBytes : Obligations.DecoderReadsAtMostSixBytes := by
  intro w
  refine ⟨decode_congr fun k hk => byteAt_take hk, ?_⟩
  split
  · exact Instr.length_bounds _
  · exact decode_eq_error ‹_›

/-! ## Unassigned bytes -/

/-- What an entry gives that is there exactly when `p` holds. -/
theorem Decoded.ofEntry_of_isSome {f : Option (List Byte → Instr)} (w : List Byte) {e : DecodeError} {bytes : List Byte}
    (he : e.bytes = bytes) {p : Prop} [Decidable p] (h : f.isSome = decide p) :
    if p then ∃ i, Decoded.ofEntry f w e = .instr i else Decoded.ofEntry f w e = .error e ∧ e.bytes = bytes := by
  cases f with
  | none => rw [if_neg (of_decide_eq_false h.symm)]; exact ⟨rfl, he⟩
  | some c => rw [if_pos (of_decide_eq_true h.symm)]; exact ⟨c w, rfl⟩

theorem map0F_isSome (b : Byte) :
    (map0F b).isSome = decide (b ∈ [0x05#8, 0x07#8, 0x0B#8, 0x31#8, 0x87#8, 0xA2#8, 0xB8#8, 0xBC#8, 0xBD#8]) := by
  revert b; decide

theorem mapF3_isSome (b : Byte) : (mapF3 b).isSome = decide (b = 0xA4#8 ∨ b = 0xA6#8) := by
  revert b; decide

theorem mapF7_isSome (b : Byte) : (mapF7 b).isSome = decide (2 ≤ b.toNat ∧ b.toNat ≤ 7) := by
  revert b; decide

theorem map8E_isSome (b : Byte) : (map8E b).isSome = decide ((b.toNat / 8) % 8 ≤ 5) := by
  revert b; decide

/-- A first byte that is no escape byte is looked up in the primary map. -/
theorem decode_of_not_escape {w : List Byte} (h : byteAt w 0 ∉ [0x0F#8, 0xF3#8, 0xF7#8, 0x8E#8]) :
    decode w = Decoded.ofEntry (primaryMap (byteAt w 0)) w (.primary (byteAt w 0)) := by
  unfold decode
  simp only
  split
  case h_5 => rfl
  all_goals
    rename_i hb
    simp [hb] at h

/-- An error after one of the four escape bytes consumes two bytes. -/
theorem decode_error_of_escape {w : List Byte} {e : DecodeError} (h : decode w = .error e)
    (hb : byteAt w 0 ∈ [0x0F#8, 0xF3#8, 0xF7#8, 0x8E#8]) : e.bytes.length = 2 := by
  unfold decode at h
  simp only at h
  split at h
  case h_5 => simp_all
  all_goals
    cases Decoded.ofEntry_eq_error h
    rfl

/-- Settles O4: the assigned bytes of each map are found by trying all 256. -/
theorem unassignedBytesAreDecodeErrors : Obligations.UnassignedBytesAreDecodeErrors := by
  refine ⟨fun w => ?_, fun b w => ⟨?_, ?_, ?_, ?_⟩⟩
  · intro b
    split_ifs with hun hesc
    · have hnone : byteAt w 0 ∉ [0x0F#8, 0xF3#8, 0xF7#8, 0x8E#8] ∧ (primaryMap (byteAt w 0)).isNone = true := by
        revert hun; simp only [b]; generalize byteAt w 0 = c; revert c; decide
      rw [decode_of_not_escape hnone.1, Option.isNone_iff_eq_none.mp hnone.2]
      exact ⟨rfl, rfl⟩
    · refine fun e he => decode_error_of_escape he ?_
      revert hesc; simp only [b]; generalize byteAt w 0 = c; revert c; decide
    · have hsome : (primaryMap (byteAt w 0)).isSome = true := by
        revert hun hesc; simp only [b]; generalize byteAt w 0 = c; revert c; decide
      obtain ⟨c, hc⟩ := Option.isSome_iff_exists.mp hsome
      exact ⟨c w, decode_of_primaryMap hc⟩
  · exact Decoded.ofEntry_of_isSome _ rfl (map0F_isSome b)
  · exact Decoded.ofEntry_of_isSome _ rfl (mapF3_isSome b)
  · exact Decoded.ofEntry_of_isSome _ rfl (mapF7_isSome b)
  · exact Decoded.ofEntry_of_isSome _ rfl (map8E_isSome b)

/-- Settles O5 by running the decoder on each word. -/
theorem writtenOutWordsDecode : Obligations.WrittenOutWordsDecode := by
  unfold Obligations.WrittenOutWordsDecode
  decide

end Sys2Proof
end

section
/-!
PROOFS. Memory and the bus (O21 to O24), and boot load (O14). First reads as numbers and reads after a write access; then each
statement from them.
-/

namespace Sys2Proof

/-! ## Values and their bytes -/

theorem toNat_le16 (b0 b1 : Byte) : (le16 b0 b1).toNat = b0.toNat + 2 ^ 8 * b1.toNat := by
  rw [le16, BitVec.toNat_append, ← Nat.shiftLeft_add_eq_or_of_lt b0.isLt, Nat.shiftLeft_eq]
  omega

theorem toNat_le32 (b0 b1 b2 b3 : Byte) :
    (le32 b0 b1 b2 b3).toNat = b0.toNat + 2 ^ 8 * b1.toNat + 2 ^ 16 * b2.toNat + 2 ^ 24 * b3.toNat := by
  simp only [le32, BitVec.toNat_append]
  rw [← Nat.shiftLeft_add_eq_or_of_lt b0.isLt, ← Nat.shiftLeft_add_eq_or_of_lt b1.isLt,
    ← Nat.shiftLeft_add_eq_or_of_lt b2.isLt]
  simp only [Nat.shiftLeft_eq]
  omega

/-- Byte `k` of a 32-bit value is its bits `8k+7..8k` (R75). -/
theorem toNat_getD_bytes32 (v : Word) {k : Nat} (hk : k < 4) :
    ((bytes32 v).getD k 0#8).toNat = v.toNat / 2 ^ (8 * k) % 2 ^ 8 := by
  have hk' : k = 0 ∨ k = 1 ∨ k = 2 ∨ k = 3 := by omega
  rcases hk' with rfl | rfl | rfl | rfl <;> simp [bytes32, BitVec.extractLsb'_toNat, Nat.shiftRight_eq_div_pow]

namespace Machine

/-! ## Reads -/

theorem State.readByte_of_not_inRange (s : State) {a : Word} (h : inRange a = false) : s.readByte a = 0#8 := by
  simp [State.readByte, h]

/-- Settles O22: the number of an append is the low part plus the high part moved up. -/
theorem readsAreLittleEndianByBytes : Obligations.ReadsAreLittleEndianByBytes :=
  fun s _ => ⟨s.readByte_of_not_inRange, toNat_le16 _ _, toNat_le32 _ _ _ _⟩

/-! ## Write accesses -/

/-- Settles O21: `NoStore.memWrite` from the state itself. -/
theorem busWriteEffect : Obligations.BusWriteEffect :=
  fun s a bytes hlen => ⟨State.memWrite_pc s a bytes,
    (NoStore.refl s [] []).memWrite a bytes (hlen.trans (by decide))⟩

theorem spanInRange_iff (a : Word) (n : Nat) :
    spanInRange a n = true ↔ ∀ k, k < n → inRange (a + BitVec.ofNat 32 k) = true := by
  induction n generalizing a with
  | zero => simp [spanInRange]
  | succ n ih =>
    rw [spanInRange, Bool.and_eq_true, ih, Nat.forall_lt_succ_left]
    have hstep : ∀ k, a + 1#32 + BitVec.ofNat 32 k = a + BitVec.ofNat 32 (k + 1) := fun k => by
      rw [Nat.add_comm, BitVec.ofNat_add, BitVec.add_assoc]
    simp [hstep]

/-- The byte at offset `k` of a region in range that was stored. -/
theorem Stores.readByte_offset {s t : State} {rs : List (Fin 8)} {bits : List Nat} {a : Word} {bytes : List Byte}
    {last : Option Word} {new : List Event} (h : Stores s t rs bits a bytes last new)
    (hspan : spanInRange a bytes.length = true) {k : Nat} (hk : k < bytes.length) (hlen : bytes.length ≤ 2 ^ 32) :
    t.readByte (a + BitVec.ofNat 32 k) = bytes.getD k 0#8 := by
  have hoffset : (a + BitVec.ofNat 32 k - a).toNat = k := by
    rw [BitVec.add_comm, BitVec.add_sub_cancel, BitVec.toNat_ofNat, Nat.mod_eq_of_lt (by omega)]
  rw [h.stored _ (by rw [inAccess, hoffset]; exact decide_eq_true hk) ((spanInRange_iff _ _).mp hspan k hk), hoffset]

/-- The byte at offset `k` of a write access in range, after it. -/
theorem State.readByte_memWrite_offset (s : State) {a : Word} {bytes : List Byte} {k : Nat}
    (hspan : spanInRange a bytes.length = true) (hk : k < bytes.length) (hlen : bytes.length ≤ 2 ^ 32) :
    (s.memWrite a bytes).readByte (a + BitVec.ofNat 32 k) = bytes.getD k 0#8 :=
  ((NoStore.refl s [] []).memWrite a bytes hlen).readByte_offset hspan hk hlen

/-- A 32-bit read of a 32-bit cell in range gives what was written (R76). -/
theorem State.readWord_memWrite (s : State) {a : Word} (v : Word) (hspan : spanInRange a 4 = true) :
    (s.memWrite a (bytes32 v)).readWord a = v := by
  have hbyte := fun k hk => s.readByte_memWrite_offset (a := a) (bytes := bytes32 v) (k := k) hspan hk (by simp)
  have h0 := hbyte 0 (by simp)
  rw [BitVec.add_zero] at h0
  rw [State.readWord, h0, hbyte 1 (by simp), hbyte 2 (by simp), hbyte 3 (by simp)]
  exact le32_bytes v

/-- A 16-bit read of a 32-bit cell in range gives the low half (R76). -/
theorem State.readHalf_memWrite (s : State) {a : Word} (v : Word) (hspan : spanInRange a 4 = true) :
    ((s.memWrite a (bytes32 v)).readHalf a).toNat = v.toNat % 2 ^ 16 := by
  have hbyte := fun k hk => s.readByte_memWrite_offset (a := a) (bytes := bytes32 v) (k := k) hspan hk (by simp)
  have h0 := hbyte 0 (by simp)
  rw [BitVec.add_zero] at h0
  rw [State.readHalf, h0, hbyte 1 (by simp), toNat_le16, toNat_getD_bytes32 v (by decide), toNat_getD_bytes32 v (by decide)]
  omega

/-- Settles O23: each byte of the access reads back as the byte of `v` written there. -/
theorem mixedWidthAccess : Obligations.MixedWidthAccess := by
  intro s a v hspan
  refine ⟨fun k hk => ?_, s.readHalf_memWrite v hspan, s.readWord_memWrite v hspan⟩
  rw [s.readByte_memWrite_offset (bytes := bytes32 v) hspan hk (by simp), toNat_getD_bytes32 v hk]

/-! ## Fetch -/

theorem byteAt_fetchBytes (s : State) (a : Word) {k n : Nat} (h : k < n) :
    byteAt (s.fetchBytes a n) k = s.readByte (a + BitVec.ofNat 32 k) := by
  induction n generalizing a k with
  | zero => omega
  | succ n ih =>
    cases k with
    | zero => simp [State.fetchBytes]
    | succ k =>
      rw [State.fetchBytes, byteAt_cons_succ, ih _ (by omega), Nat.add_comm, BitVec.ofNat_add, BitVec.add_assoc]

/-- Settles O24: the six bytes fetched agree with the encoding and then whatever follows it in memory, and six bytes decide. -/
theorem fetchSeesStores : Obligations.FetchSeesStores := by
  intro s i hwf hspan
  have hlen : (encode i).length ≤ 6 := (Instr.length_bounds i).2
  set t := s.memWrite s.pc (encode i) with ht
  let rest := (t.fetchBytes s.pc 6).drop i.length
  rw [State.decodeAtPc, ← decode_encode hwf rest]
  have hpc : t.pc = s.pc := State.memWrite_pc _ _ _
  rw [hpc]
  refine decode_congr fun k hk => ?_
  by_cases hin : k < i.length
  · rw [byteAt_fetchBytes _ _ hk, ht, s.readByte_memWrite_offset hspan hin (hlen.trans (by decide))]
    simp [byteAt, List.getD, List.getElem?_append_left (show k < (encode i).length from hin)]
  · have hge : (encode i).length ≤ k := Nat.not_lt.mp hin
    simp [byteAt, List.getD, List.getElem?_append_right hge, rest, Instr.length, Nat.add_sub_cancel' hge]

/-! ## Boot load -/

/-- The registers of a machine just created (R36, R40). -/
theorem created_reg (p : Setup) (j : Fin 8) : (State.created p).reg j = if j = 7 then 0x7C00#32 else 0#32 := by
  fin_cases j <;> rfl

theorem created_seg (p : Setup) (k : Sel) : (State.created p).seg k = 0#16 := by
  cases k <;> rfl

/-- What a machine reads whose memory is a boot sector alone (R430, R431). -/
theorem readByte_bootSector {s : State} {image : List Byte} (hlen : 512 ≤ image.length)
    (hmem : s.mem = Memory.load [] 0x7C00 (image.take 512)) (a : Word) :
    s.readByte a = if 0x7C00 ≤ a.toNat ∧ a.toNat < 0x7E00 then image.getD (a.toNat - 0x7C00) 0#8 else 0#8 := by
  rw [State.readByte, hmem, Memory.read_load, List.length_take, Nat.min_eq_left hlen]
  by_cases ha : 0x7C00 ≤ a.toNat ∧ a.toNat < 0x7E00
  · have hin : inRange a = true := decide_eq_true (ha.2.trans (by decide))
    have hk : a.toNat - 0x7C00 < 512 := by omega
    rw [if_pos hin, if_pos ha, if_pos ha]
    simp [List.getD, List.getElem?_take_of_lt hk]
  · rw [if_neg ha, if_neg ha, Memory.read, ite_self]

/-- Settles O14: the boot state is the created one with the boot sector loaded. -/
theorem bootLoadLeavesBootState : Obligations.BootLoadLeavesBootState := by
  intro p
  split
  · rename_i hnone
    rw [bootLoad, hnone]
  · rename_i image himage
    split_ifs with hlen
    · rw [bootLoad, himage]
      exact if_pos hlen
    · refine ⟨{ State.created p with mem := Memory.load [] 0x7C00 (image.take 512) }, ?_, rfl, rfl, created_reg p, created_seg p,
        rfl, rfl, rfl, rfl, rfl, rfl, rfl, rfl, ?_, readByte_bootSector (Nat.not_lt.mp hlen) rfl⟩
      · rw [bootLoad, himage]
        exact if_neg hlen
      · refine Memory.wf_load rfl ?_
        have := List.length_take_le 512 image
        simp only [Config.memSize]
        omega

end Machine
end Sys2Proof
end

section
/-!
PROOFS. Stores (O27), pushes (O28), and a pop after a push (O30).
-/

namespace Sys2Proof.Machine

/-! ## Named registers -/

theorem regIndex?_of_names {b : Byte} {i : Fin 8} (h : i.val = b.toNat) : regIndex? b = some i := by
  rw [regIndex?_of_lt (h ▸ i.isLt)]
  exact congrArg some (Fin.ext h.symm)

theorem guard1_of_names {r : Byte} {i : Fin 8} (h : i.val = r.toNat) (len : Word) (s : State) (body : Fin 8 → State) :
    guard1 r len s body = .next ((body i).advance s len) := by
  rw [guard1, regIndex?_of_names h]

theorem guard2_of_names {d e : Byte} {i j : Fin 8} (hd : i.val = d.toNat) (he : j.val = e.toNat) (len : Word) (s : State)
    (body : Fin 8 → Fin 8 → State) : guard2 d e len s body = .next ((body i j).advance s len) := by
  rw [guard2, regIndex?_of_names hd, regIndex?_of_names he]

/-! ## The stores -/

theorem exec_sta (a : Word) (r : Byte) (s : State) :
    exec (.sta r a) s = guard1 r len6 s fun i => s.memWrite a (bytes32 (s.reg i)) := rfl

theorem exec_str (d e : Byte) (s : State) :
    exec (.str d e) s = guard2 d e len3 s fun i j => s.memWrite (s.reg i) (bytes32 (s.reg j)) := rfl

theorem exec_strb (d e : Byte) (s : State) :
    exec (.strb d e) s = guard2 d e len3 s fun i j => s.memWrite (s.reg i) [(s.reg j).setWidth 8] := rfl

theorem sta_rule (a : Word) :
    RegisterRule (.sta · a) [0x04#8] (bytes32 a) fun r s t => OneStore s t [] [] a (bytes32 (s.reg r)) :=
  registerRule_of_guard1 (fun _ => rfl) rfl (exec_sta a) fun _ s => oneStore_memWrite s _ _ (by simp) _

theorem str_rule : PairRule .str [0x06#8] fun d e s t => OneStore s t [] [] (s.reg d) (bytes32 (s.reg e)) :=
  pairRule_of_guard2 (fun _ _ => rfl) rfl exec_str fun _ _ s => oneStore_memWrite s _ _ (by simp) _

theorem strb_rule : PairRule .strb [0x09#8] fun d e s t => OneStore s t [] [] (s.reg d) [(s.reg e).setWidth 8] :=
  pairRule_of_guard2 (fun _ _ => rfl) rfl exec_strb fun _ _ s => oneStore_memWrite s _ _ (by simp) _

/-- Settles O27: each store is one write access, under its guard. -/
theorem storeRules : Obligations.StoreRules :=
  ⟨sta_rule, str_rule, strb_rule⟩

/-! ## The pushes -/

theorem exec_push (r : Byte) (s : State) : exec (.push r) s = guard1 r len2 s fun i => s.pushWord (s.reg i) := rfl

theorem exec_push16 (r : BitVec 3) (s : State) :
    exec (.push16 r) s = .next ((s.pushHalf ((s.reg (regOfField r)).setWidth 16)).advance s len1) := rfl

theorem State.pushWord_eq (s : State) (v : Word) :
    s.pushWord v = (s.setReg 7 (s.reg 7 - 4#32)).memWrite (s.reg 7 - 4#32) (bytes32 v) :=
  State.pushBytes_eq s (bytes32 v)

/-- A push of a 32-bit cell: x[7] and the cell (R169). -/
theorem pushWord_effect (s : State) (v : Word) :
    (s.pushWord v).reg 7 = s.reg 7 - 4#32 ∧ OneStore s (s.pushWord v) [7] [] (s.reg 7 - 4#32) (bytes32 v) :=
  oneStore_pushBytes s (bytes32 v) (by simp)

/-- A push of a 16-bit cell: x[7] and the cell (R173). -/
theorem pushHalf_effect (s : State) (v : Half) :
    (s.pushHalf v).reg 7 = s.reg 7 - 2#32 ∧ OneStore s (s.pushHalf v) [7] [] (s.reg 7 - 2#32) (bytes16 v) :=
  oneStore_pushBytes s (bytes16 v) (by simp)

theorem push_rule :
    RegisterRule .push [0x0A#8] [] fun r s t =>
      t.reg 7 = s.reg 7 - 4#32 ∧ OneStore s t [7] [] (s.reg 7 - 4#32) (bytes32 (s.reg r)) :=
  registerRule_of_guard1 (fun _ => rfl) rfl exec_push fun i s =>
    let ⟨hsp, hstore⟩ := pushWord_effect s (s.reg i)
    ⟨hsp, hstore.advance s len2⟩

theorem push16_rule (r : BitVec 3) :
    Advances (.push16 r) [0x50#8 + r.setWidth 8] fun s t =>
      t.reg 7 = s.reg 7 - 2#32 ∧ OneStore s t [7] [] (s.reg 7 - 2#32) (bytes16 ((s.reg (regOfField r)).setWidth 16)) :=
  advances_of (congrArg ([·]) (legacyOpcode_eq_add 0b01010#5 r)) rfl (exec_push16 r) fun s =>
    let ⟨hsp, hstore⟩ := pushHalf_effect s ((s.reg (regOfField r)).setWidth 16)
    ⟨hsp, hstore.advance s len1⟩

/-- Settles O28: each push moves x[7] and is one write access there, of the register's value before. -/
theorem pushRules : Obligations.PushRules :=
  ⟨push_rule, push16_rule⟩

/-! ## A pop after a push -/

@[simp] theorem State.setPc_readWord (s : State) (v a : Word) : (s.setPc v).readWord a = s.readWord a := rfl
@[simp] theorem State.advance_readWord (s u : State) (len a : Word) : (s.advance u len).readWord a = s.readWord a := rfl

/-- A cell in range holds what was pushed there (R169). -/
theorem State.readWord_pushWord (s : State) (v : Word) (hspan : spanInRange (s.reg 7 - 4#32) 4 = true) :
    (s.pushWord v).readWord (s.reg 7 - 4#32) = v := by
  rw [State.pushWord_eq, State.readWord_memWrite _ v hspan]

/-- Settles O30: the pop reads the cell that the push wrote, at the x[7] that the push left. -/
theorem popGivesWhatWasPushed : Obligations.PopGivesWhatWasPushed := by
  intro s t u d e he hd hspan hpush hpop i j hi hj
  rw [exec_push, guard1_of_names hj] at hpush
  rw [exec_pop, guard1_of_names hi] at hpop
  obtain ⟨hsp, -⟩ := pushWord_effect s (s.reg j)
  have hi7 : i ≠ 7 := fun h => by rw [h] at hi; simp at hi; omega
  cases hpush
  cases hpop
  obtain ⟨hvalue, hsp', -⟩ := popped_setReg_effect ((s.pushWord (s.reg j)).advance s len2) 4 i
    (((s.pushWord (s.reg j)).advance s len2).readWord (((s.pushWord (s.reg j)).advance s len2).reg 7)) len2
  refine ⟨hvalue.trans ?_, (hsp' hi7).trans ?_⟩
  · rw [State.advance_reg, hsp, State.advance_readWord, s.readWord_pushWord _ hspan]
  · rw [State.advance_reg, hsp, BitVec.sub_add_cancel]

end Sys2Proof.Machine
end

section
/-!
PROOFS. Control flow (O41 to O47): jumps by `jumps_of`, calls by a push, returns by a pop, and the counter loop.
-/

namespace Sys2Proof.Machine

/-! ## Jumps -/

/-- An address plus a sign-extended displacement is their integer sum modulo 2^32 (R118). -/
theorem add_signExtend {w : Nat} (pc len : Word) (rel : BitVec w) :
    pc + len + rel.signExtend 32 = BitVec.ofInt 32 ((pc.toNat : Int) + len.toNat + rel.toInt) := by
  rw [BitVec.ofInt_add, BitVec.ofInt_add, BitVec.ofInt_natCast, BitVec.ofInt_natCast, BitVec.ofNat_toNat, BitVec.ofNat_toNat,
    BitVec.setWidth_eq, BitVec.setWidth_eq]
  rfl

/-- The target of an 8-bit displacement after an instruction of 2 bytes (R118). -/
theorem State.target8_eq (s : State) (rel : Byte) :
    s.target8 len2 rel = BitVec.ofInt 32 ((s.pc.toNat : Int) + 2 + rel.toInt) := add_signExtend s.pc len2 rel

theorem State.target16_eq (s : State) (len : Word) (rel : Half) :
    s.target16 len rel = BitVec.ofInt 32 ((s.pc.toNat : Int) + len.toNat + rel.toInt) := add_signExtend s.pc len rel

/-- A conditional jump (R141). -/
theorem jumps_of_jumpIf {i : Instr} {bytes : List Byte} {cond : State → Bool} {len : Word} {target : State → Word}
    (henc : encode i = bytes) (hlen : BitVec.ofNat 32 bytes.length = len)
    (hexec : ∀ s, exec i s = .next (s.jumpIf (cond s) len (target s))) : Jumps i bytes cond target :=
  jumps_of henc fun s => by rw [hexec, State.jumpIf, after, hlen, State.next]

/-- A jump that is always taken. -/
theorem jumps_of_setPc {i : Instr} {bytes : List Byte} {target : State → Word}
    (henc : encode i = bytes) (hexec : ∀ s, exec i s = .next (s.setPc (target s))) :
    Jumps i bytes (fun _ => true) target :=
  jumps_of henc fun s => by rw [hexec, if_pos rfl]

/-- Settles O41: each is one write of pc, by the condition it tests. -/
theorem absoluteJumpRules : Obligations.AbsoluteJumpRules := fun _ =>
  ⟨jumps_of_setPc rfl fun _ => rfl, jumps_of_jumpIf rfl rfl fun _ => rfl, jumps_of_jumpIf rfl rfl fun _ => rfl,
    jumps_of_jumpIf rfl rfl fun _ => rfl, jumps_of_jumpIf rfl rfl fun _ => rfl, jumps_of_jumpIf rfl rfl fun _ => rfl,
    jumps_of_jumpIf rfl rfl fun _ => rfl⟩

/-- A conditional jump by an 8-bit displacement (R118). -/
theorem jumps_of_jumpIf_target8 {i : Instr} {bytes : List Byte} {cond : State → Bool} {rel : Byte}
    (henc : encode i = bytes) (hlen : BitVec.ofNat 32 bytes.length = len2)
    (hexec : ∀ s, exec i s = .next (s.jumpIf (cond s) len2 (s.target8 len2 rel))) :
    Jumps i bytes cond fun s => BitVec.ofInt 32 ((s.pc.toNat : Int) + 2 + rel.toInt) :=
  jumps_of_jumpIf henc hlen fun s => by rw [hexec, s.target8_eq]

theorem exec_jmpR8 (b : Byte) (s : State) :
    exec (.jmpR8 b) s = .next (s.setPc (BitVec.ofInt 32 ((s.pc.toNat : Int) + 2 + b.toInt))) := by
  rw [← s.target8_eq]; rfl

theorem exec_jmpR16 (h : Half) (s : State) :
    exec (.jmpR16 h) s = .next (s.setPc (BitVec.ofInt 32 ((s.pc.toNat : Int) + 3 + h.toInt))) :=
  congrArg (fun target => Host.Outcome.next (s.setPc target)) (s.target16_eq len3 h)

theorem exec_jaR16 (h : Half) (s : State) :
    exec (.jaR16 h) s = .next (s.jumpIf (!s.flag 1 && !s.flag 0) len4
      (BitVec.ofInt 32 ((s.pc.toNat : Int) + 4 + h.toInt))) :=
  congrArg (fun target => Host.Outcome.next (s.jumpIf (s.holds .a) len4 target)) (s.target16_eq len4 h)

/-- Settles O42: the target of each is that of `add_signExtend`. -/
theorem relativeJumpRules : Obligations.RelativeJumpRules :=
  ⟨fun b =>
    ⟨jumps_of_setPc rfl (exec_jmpR8 b),
      jumps_of_jumpIf_target8 rfl rfl fun _ => rfl, jumps_of_jumpIf_target8 rfl rfl fun _ => rfl,
      jumps_of_jumpIf_target8 rfl rfl fun _ => rfl, jumps_of_jumpIf_target8 rfl rfl fun _ => rfl,
      jumps_of_jumpIf_target8 rfl rfl fun _ => rfl, jumps_of_jumpIf_target8 rfl rfl fun _ => rfl⟩,
    fun h => ⟨jumps_of_setPc rfl (exec_jmpR16 h), jumps_of_jumpIf rfl rfl (exec_jaR16 h)⟩⟩

/-- Settles O43: each condition is a combination of ZF, equal, and CF, below. -/
theorem conditionsAfterCompare : Obligations.ConditionsAfterCompare := by
  intro s t d e i j hi hj hcmp
  rw [exec_cmp, guard2_of_names hi hj] at hcmp
  obtain ⟨hz, hc, -⟩ := compareFlags_effect s (s.reg i) (s.reg j) len3
  cases hcmp
  simp only [State.holds, hz, hc, Bool.not_eq_true', Bool.and_eq_true, decide_eq_true_eq, decide_eq_false_iff_not,
    Nat.not_lt, ← BitVec.toNat_inj, ne_eq, true_and]
  omega

/-! ## Calls and returns -/

theorem exec_call (a : Word) (s : State) : exec (.call a) s = .next ((s.pushWord (s.pc + 5#32)).setPc a) := rfl

theorem exec_callR16 (h : Half) (s : State) :
    exec (.callR16 h) s = .next ((s.pushHalf ((s.pc + 3#32).setWidth 16)).setPc (s.target16 len3 h)) := rfl

/-- Settles O44: each call is a push of the return address, then the jump. -/
theorem callRules : Obligations.CallRules := by
  refine ⟨fun a => ⟨rfl, fun s => ⟨_, exec_call a s, rfl, ?_⟩⟩,
    fun h => ⟨rfl, fun s => ⟨_, exec_callR16 h s, s.target16_eq len3 h, ?_⟩⟩⟩
  · obtain ⟨hsp, hstore⟩ := pushWord_effect s (s.pc + 5#32)
    exact ⟨hsp, hstore.setPc _⟩
  · obtain ⟨hsp, hstore⟩ := pushHalf_effect s ((s.pc + 3#32).setWidth 16)
    exact ⟨hsp, hstore.setPc _⟩

theorem exec_ret (s : State) : exec .ret s = .next ((s.popped 4).setPc (s.readWord (s.reg 7))) := rfl

theorem exec_ret16 (s : State) :
    exec .ret16 s = .next ((s.popped 2).setPc ((s.readHalf (s.reg 7)).setWidth 32)) := rfl

theorem exec_ret16Imm (h : Half) (s : State) :
    exec (.ret16Imm h) s = .next (((s.popped 2).setReg 7 ((s.popped 2).reg 7 + h.setWidth 32)).setPc
      ((s.readHalf (s.reg 7)).setWidth 32)) := rfl

/-- Settles O45: each return is a pop, then the jump to what was popped. -/
theorem returnRules : Obligations.ReturnRules := by
  refine ⟨⟨rfl, fun s => ⟨_, exec_ret s, rfl, ?_⟩⟩,
    ⟨rfl, fun s => ⟨_, exec_ret16 s, BitVec.toNat_setWidth_of_le (by decide), ?_⟩⟩,
    fun h => ⟨rfl, fun s => ⟨_, exec_ret16Imm h s, BitVec.toNat_setWidth_of_le (by decide), ?_⟩⟩⟩
  · obtain ⟨hsp, hframe⟩ := noStore_popped s 4
    exact ⟨hsp, hframe.setPc _⟩
  · obtain ⟨hsp, hframe⟩ := noStore_popped s 2
    exact ⟨hsp, hframe.setPc _⟩
  · obtain ⟨hsp, hframe⟩ := noStore_popped s 2
    refine ⟨?_, (hframe.setReg (by simp) _).setPc _⟩
    rw [State.setPc_reg, State.reg_setReg_self, hsp, BitVec.add_assoc, BitVec.ofNat_add]
    congr 2
    exact BitVec.eq_of_toNat_eq (by simp)

/-- Settles O46: the RET pops the cell that the CALL pushed, and x[7] moves back. -/
theorem callThenReturn : Obligations.CallThenReturn := by
  intro s t u a hspan hcall hret
  rw [exec_call] at hcall
  rw [exec_ret] at hret
  obtain ⟨hsp, hstore⟩ := pushWord_effect s (s.pc + 5#32)
  cases hcall
  cases hret
  refine ⟨?_, fun j => ?_⟩
  · rw [State.setPc_pc, State.setPc_reg, hsp, State.setPc_readWord, s.readWord_pushWord _ hspan]
  · rw [State.setPc_reg, State.popped_reg, State.setPc_reg, State.setPc_reg, hsp]
    split_ifs with hj
    · rw [hj, BitVec.sub_add_cancel]
    · exact hstore.regs j (by simpa using hj)

/-! ## The counter loop -/

/-- All the counter loop does (R282, R295). -/
theorem loopTo_effect (s : State) (len target : Word) :
    (s.loopTo len target).reg 2 = s.reg 2 - 1#32 ∧
      (s.loopTo len target).pc = (if s.reg 2 = 1#32 then s.pc + len else target) ∧
      NoStore s (s.loopTo len target) [2] [] [] := by
  refine ⟨by simp [State.loopTo], ?_, ((NoStore.refl s [2] []).setReg (by simp) _).setPc _⟩
  have hzero : s.reg 2 - 1#32 = 0#32 ↔ s.reg 2 = 1#32 := by bv_omega
  rw [State.loopTo, State.setPc_pc, State.next]
  simp only [hzero]

/-- Settles O47: both forms are `State.loopTo`. -/
theorem loopRules : Obligations.LoopRules := by
  refine ⟨fun a => ⟨rfl, fun s => ⟨_, rfl, loopTo_effect s len5 a⟩⟩, fun b => ⟨rfl, fun s => ⟨_, rfl, ?_⟩⟩⟩
  have heffect := loopTo_effect s len2 (s.target8 len2 b)
  rwa [s.target8_eq] at heffect ⊢

end Sys2Proof.Machine
end

section
/-!
PROOFS. String operations (O48 to O50): what one comparison and one move do, and the two loops by induction on the count.
-/

namespace Sys2Proof.Machine

/-! ## One byte -/

@[simp] theorem State.compareFlags_reg (s : State) (a b : Nat) (i : Fin 8) : (s.compareFlags a b).reg i = s.reg i := rfl

@[simp] theorem State.stepCursors_reg (s : State) (i : Fin 8) :
    s.stepCursors.reg i = if i = 5 then s.reg 5 + 1#32 else if i = 4 then s.reg 4 + 1#32 else s.reg i := by
  simp [State.stepCursors, State.reg_setReg]

/-- All the comparison of one byte does (R320). -/
theorem compareByte_effect (s : State) :
    s.compareByte.zf = decide (s.readByte (s.reg 4) = s.readByte (s.reg 5)) ∧
      s.compareByte.cf = decide ((s.readByte (s.reg 4)).toNat < (s.readByte (s.reg 5)).toNat) ∧
      s.compareByte.reg 4 = s.reg 4 + 1#32 ∧ s.compareByte.reg 5 = s.reg 5 + 1#32 ∧
      NoStore s s.compareByte [4, 5] [zfBit, cfBit] (readReport (s.reg 4) 1 ++ readReport (s.reg 5) 1) := by
  refine ⟨?_, ?_, by simp [State.compareByte], by simp [State.compareByte], ?_⟩
  · simp [State.compareByte, State.stepCursors, BitVec.toNat_inj]
  · simp [State.compareByte, State.stepCursors]
  · exact ((((((NoStore.refl s _ _).noteRead _ 1).noteRead _ 1).compareFlags (by simp) (by simp) _ _).setReg
      (by simp) _).setReg (by simp) _)

/-- All the move of one byte does (R321). -/
theorem moveByte_effect (s : State) :
    s.moveByte.reg 4 = s.reg 4 + 1#32 ∧ s.moveByte.reg 5 = s.reg 5 + 1#32 ∧
      Stores s s.moveByte [4, 5] [] (s.reg 5) [s.readByte (s.reg 4)] (some (s.reg 5))
        (readReport (s.reg 4) 1 ++ storeOutputs s.setup.hooks (s.reg 5) [s.readByte (s.reg 4)]) := by
  refine ⟨by simp [State.moveByte], by simp [State.moveByte], ?_⟩
  exact ((((NoStore.refl s _ _).noteRead _ 1).memWrite _ [_] (by simp)).setReg (by simp) _).setReg (by simp) _

theorem exec_cmpsb (s : State) : exec .cmpsb s = .next (s.compareByte.advance s len1) := rfl

theorem exec_movsb (s : State) : exec .movsb s = .next (s.moveByte.advance s len1) := rfl

/-- Settles O48: each is its body, then the pc advance. -/
theorem byteStringRules : Obligations.ByteStringRules := by
  refine ⟨advances_of rfl rfl exec_cmpsb fun s => ?_, advances_of rfl rfl exec_movsb fun s => ?_⟩
  · obtain ⟨hz, hc, h4, h5, hframe⟩ := compareByte_effect s
    exact ⟨hz, hc, h4, h5, hframe.advance _ _⟩
  · obtain ⟨h4, h5, hstore⟩ := moveByte_effect s
    exact ⟨h4, h5, hstore.advance _ _⟩

/-! ## The count -/

/-- A frame of a region stored with more registers allowed is a frame. -/
theorem Stores.mono_regs {s t : State} {rs rs' : List (Fin 8)} {bits : List Nat} {a : Word} {bytes : List Byte}
    {last : Option Word} {new : List Event} (h : Stores s t rs bits a bytes last new) (hr : ∀ i, i ∈ rs → i ∈ rs') :
    Stores s t rs' bits a bytes last new :=
  { h with regs := fun i hi => h.regs i fun hmem => hi (hr i hmem) }

@[simp] theorem State.countDown_reg (s : State) (i : Fin 8) :
    s.countDown.reg i = if i = 2 then s.reg 2 - 1#32 else s.reg i := by
  simp [State.countDown, State.reg_setReg]

/-- Counting down a count of `n + 1` leaves `n`. -/
theorem toNat_sub_one {w : Word} {n : Nat} (h : w.toNat = n + 1) : (w - 1#32).toNat = n := by bv_omega

theorem ne_zero_of_toNat {w : Word} {n : Nat} (h : w.toNat = n + 1) : w ≠ 0#32 := by bv_omega

theorem add_one_add_ofNat (a : Word) (k : Nat) : a + 1#32 + BitVec.ofNat 32 k = a + BitVec.ofNat 32 (k + 1) := by
  rw [Nat.add_comm, BitVec.ofNat_add, BitVec.add_assoc]

/-! ## REP MOVSB -/

/-- One iteration of REP MOVSB (R322). -/
theorem moveByte_countDown_effect (s : State) :
    s.moveByte.countDown.reg 2 = s.reg 2 - 1#32 ∧ s.moveByte.countDown.reg 4 = s.reg 4 + 1#32 ∧
      s.moveByte.countDown.reg 5 = s.reg 5 + 1#32 ∧
      Stores s s.moveByte.countDown [2, 4, 5] [] (s.reg 5) [s.readByte (s.reg 4)] (some (s.reg 5))
        (readReport (s.reg 4) 1 ++ storeOutputs s.setup.hooks (s.reg 5) [s.readByte (s.reg 4)]) := by
  obtain ⟨h4, h5, hstore⟩ := moveByte_effect s
  have h2 : s.moveByte.reg 2 = s.reg 2 := hstore.regs 2 (by decide)
  exact ⟨by simp [h2], by simp [h4], by simp [h5], (hstore.mono_regs (by simp +contextual)).setReg (by simp) _⟩

/-- `bytes` are what a forward copy from `src` to `dst` stores: each is the source byte at its time, a byte that the copy has
stored before reading as stored (R322, R324). -/
def CopiedForward (s : State) (src dst : Word) (bytes : List Byte) : Prop :=
  ∀ k, k < bytes.length →
    let a := src + BitVec.ofNat 32 k
    bytes.getD k 0#8 =
      if inRange a = true ∧ inAccess dst k a = true then bytes.getD (a - dst).toNat 0#8 else s.readByte a

/-- A forward copy is its first byte, then a forward copy from the state that holds it. -/
theorem CopiedForward.cons {s t : State} {rs : List (Fin 8)} {bits : List Nat} {last : Option Word} {new : List Event}
    {src dst : Word} {bytes : List Byte} (hstore : Stores s t rs bits dst [s.readByte src] last new)
    (h : CopiedForward t (src + 1#32) (dst + 1#32) bytes) (hlen : bytes.length < 2 ^ 32) :
    CopiedForward s src dst (s.readByte src :: bytes) := by
  intro k hk
  cases k with
  | zero => simp [inAccess_zero]
  | succ k =>
    have hk' : k < bytes.length := by simpa using hk
    have hrest := h k hk'
    simp only [add_one_add_ofNat] at hrest
    simp only [List.getD_cons_succ, hrest]
    generalize src + BitVec.ofNat 32 (k + 1) = a
    by_cases ha : a = dst
    · subst ha
      have habove : inAccess (a + 1#32) k a = false := inAccess_above a (by omega)
      have hself : inAccess a 1 a = true := by simp [inAccess]
      have hfirst : inAccess a (k + 1) a = true := by simp [inAccess_succ]
      by_cases hin : inRange a = true
      · simpa [habove, hfirst, hin] using hstore.stored a hself hin
      · simp [hin, State.readByte_of_not_inRange]
    · have hout : inAccess dst 1 a = false := by simp [inAccess_succ, ha, inAccess_zero]
      simp [inAccess_succ, ha, toNat_sub_succ ha, hstore.outside a hout]

/-- All the loop of REP MOVSB does (R322). -/
theorem repeatMove_effect (n : Nat) (s : State) (hn : (s.reg 2).toNat = n) :
    let t := State.repeatMove n s
    t.reg 2 = 0#32 ∧ t.reg 4 = s.reg 4 + BitVec.ofNat 32 n ∧ t.reg 5 = s.reg 5 + BitVec.ofNat 32 n ∧
      ∃ bytes : List Byte, bytes.length = n ∧ CopiedForward s (s.reg 4) (s.reg 5) bytes ∧
        Stores s t [2, 4, 5] [] (s.reg 5) bytes (lastWritten (s.reg 5) n s.lwa)
          (moveOutputs s.setup.hooks (s.reg 4) (s.reg 5) bytes) := by
  induction n generalizing s with
  | zero =>
    refine ⟨BitVec.eq_of_toNat_eq hn, (BitVec.add_zero _).symm, (BitVec.add_zero _).symm, [], rfl, ?_, ?_⟩
    · intro k hk
      cases hk
    · exact (NoStore.refl s _ _).stores_nil _
  | succ n ih =>
    have hne := ne_zero_of_toNat hn
    obtain ⟨h2, h4, h5, hstore⟩ := moveByte_countDown_effect s
    obtain ⟨ht2, ht4, ht5, bytes, hlen, hcopied, hrest⟩ := ih s.moveByte.countDown (h2 ▸ toNat_sub_one hn)
    have hlt : bytes.length < 2 ^ 32 := by have := (s.reg 2).isLt; omega
    simp only [State.repeatMove, if_neg hne]
    rw [h4] at ht4 hcopied hrest
    rw [h5] at ht5 hcopied hrest
    refine ⟨ht2, by rw [ht4, add_one_add_ofNat], by rw [ht5, add_one_add_ofNat], s.readByte (s.reg 4) :: bytes,
      by simp [hlen], hcopied.cons hstore hlt, ?_⟩
    have hall := hstore.cons hrest hlt
    rwa [hstore.lwa, hstore.setup, lastWritten_succ _ _ s.lwa] at hall

theorem exec_repMovsb (s : State) :
    exec .repMovsb s = .next ((State.repeatMove (s.reg 2).toNat s).advance s len2) := rfl

/-- Settles O49: `repeatMove_effect` with the count that x[2] holds. -/
theorem repeatMoveRule : Obligations.RepeatMoveRule := by
  refine advances_of rfl rfl exec_repMovsb fun s => ?_
  obtain ⟨h2, h4, h5, bytes, hlen, hcopied, hstore⟩ := repeatMove_effect _ s rfl
  rw [BitVec.ofNat_toNat, BitVec.setWidth_eq] at h4 h5
  exact ⟨h2, h4, h5, bytes, hlen, hlen ▸ hcopied, hstore.advance _ _⟩

/-! ## REP CMPSB -/

/-- The source byte of pair `k` (R323). -/
def State.sourceByte (s : State) (k : Nat) : Byte := s.readByte (s.reg 4 + BitVec.ofNat 32 k)

/-- The destination byte of pair `k` (R323). -/
def State.destByte (s : State) (k : Nat) : Byte := s.readByte (s.reg 5 + BitVec.ofNat 32 k)

/-- `t` is `s` after the comparison of the pairs up to `k`, the last one compared, of `n` asked for (R323). -/
def ComparedTo (s t : State) (n k : Nat) : Prop :=
  k < n ∧ (∀ j, j < k → s.sourceByte j = s.destByte j) ∧ (k + 1 < n → s.sourceByte k ≠ s.destByte k) ∧
    t.reg 2 = BitVec.ofNat 32 (n - (k + 1)) ∧ t.reg 4 = s.reg 4 + BitVec.ofNat 32 (k + 1) ∧
    t.reg 5 = s.reg 5 + BitVec.ofNat 32 (k + 1) ∧
    t.zf = decide (s.sourceByte k = s.destByte k) ∧ t.cf = decide ((s.sourceByte k).toNat < (s.destByte k).toNat) ∧
    NoStore s t [2, 4, 5] [zfBit, cfBit] (compareOutputs (s.reg 4) (s.reg 5) (k + 1))

/-- One iteration of REP CMPSB (R323). -/
theorem compareByte_countDown_effect (s : State) :
    let u := s.compareByte.countDown
    u.zf = decide (s.sourceByte 0 = s.destByte 0) ∧ u.cf = decide ((s.sourceByte 0).toNat < (s.destByte 0).toNat) ∧
      u.reg 2 = s.reg 2 - 1#32 ∧ u.reg 4 = s.reg 4 + 1#32 ∧ u.reg 5 = s.reg 5 + 1#32 ∧
      NoStore s u [2, 4, 5] [zfBit, cfBit] (compareOutputs (s.reg 4) (s.reg 5) 1) := by
  obtain ⟨hz, hc, h4, h5, hframe⟩ := compareByte_effect s
  have h2 : s.compareByte.reg 2 = s.reg 2 := hframe.regs 2 (by decide)
  simp only [State.sourceByte, State.destByte, BitVec.add_zero, compareOutputs, List.append_nil]
  exact ⟨hz, hc, by simp [h2], by simp [h4], by simp [h5],
    (hframe.mono (by simp +contextual) (by simp)).setReg (by simp) _⟩

/-- The loop stops after its first pair, on a mismatch or because it is the last. -/
theorem comparedTo_first {s : State} {n : Nat} (hn : (s.reg 2).toNat = n + 1)
    (hlast : 0 < n → s.sourceByte 0 ≠ s.destByte 0) : ComparedTo s s.compareByte.countDown (n + 1) 0 := by
  obtain ⟨hz, hc, h2, h4, h5, hframe⟩ := compareByte_countDown_effect s
  refine ⟨Nat.succ_pos n, fun j hj => absurd hj (Nat.not_lt_zero j), fun h => hlast (by omega), ?_, h4, h5, hz, hc, hframe⟩
  rw [h2, ← toNat_sub_one hn, Nat.add_sub_cancel, BitVec.ofNat_toNat, BitVec.setWidth_eq]

/-- The loop goes on after its first pair, which is equal. -/
theorem ComparedTo.succ {s t : State} {n k : Nat} (heq : s.sourceByte 0 = s.destByte 0)
    (h : ComparedTo s.compareByte.countDown t n k) : ComparedTo s t (n + 1) (k + 1) := by
  obtain ⟨-, -, -, h4, h5, hframe⟩ := compareByte_countDown_effect s
  obtain ⟨hk, hequal, hstop, ht2, ht4, ht5, htz, htc, htframe⟩ := h
  have hsource : ∀ j, s.compareByte.countDown.sourceByte j = s.sourceByte (j + 1) := fun j => by
    rw [State.sourceByte, State.sourceByte, h4, add_one_add_ofNat]; exact hframe.memory _
  have hdest : ∀ j, s.compareByte.countDown.destByte j = s.destByte (j + 1) := fun j => by
    rw [State.destByte, State.destByte, h5, add_one_add_ofNat]; exact hframe.memory _
  simp only [hsource, hdest] at hequal hstop htz htc
  rw [h4] at ht4 htframe
  rw [h5] at ht5 htframe
  refine ⟨by omega, fun j hj => ?_, fun hlt => hstop (by omega), ?_, by rw [ht4, add_one_add_ofNat],
    by rw [ht5, add_one_add_ofNat], htz, htc, ?_⟩
  · cases j with
    | zero => exact heq
    | succ j => exact hequal j (by omega)
  · rw [ht2]; congr 1; omega
  · simpa [compareOutputs] using hframe.trans htframe

/-- The loop of REP CMPSB with a count that is not 0 (R323). -/
theorem State.repeatCompare_succ {s : State} (hne : s.reg 2 ≠ 0#32) (n : Nat) :
    State.repeatCompare (n + 1) s =
      if s.sourceByte 0 = s.destByte 0 then State.repeatCompare n s.compareByte.countDown
      else s.compareByte.countDown := by
  obtain ⟨hz, -⟩ := compareByte_countDown_effect s
  simp only [State.repeatCompare, if_neg hne, hz, decide_eq_true_eq]

/-- All the loop of REP CMPSB does with a count that is not 0 (R323). -/
theorem repeatCompare_effect (n : Nat) (s : State) (hn : (s.reg 2).toNat = n + 1) :
    ∃ k, ComparedTo s (State.repeatCompare (n + 1) s) (n + 1) k := by
  rw [State.repeatCompare_succ (ne_zero_of_toNat hn)]
  induction n generalizing s with
  | zero =>
    have hfirst := comparedTo_first hn (fun h => absurd h (Nat.lt_irrefl 0))
    exact ⟨0, by simpa only [State.repeatCompare, ite_self] using hfirst⟩
  | succ n ih =>
    obtain ⟨-, -, h2, -⟩ := compareByte_countDown_effect s
    have hn' : (s.compareByte.countDown.reg 2).toNat = n + 1 := h2 ▸ toNat_sub_one hn
    split_ifs with heq
    · obtain ⟨k, hk⟩ := ih _ hn'
      rw [State.repeatCompare_succ (ne_zero_of_toNat hn')]
      exact ⟨k + 1, hk.succ heq⟩
    · exact ⟨0, comparedTo_first hn fun _ => heq⟩

theorem exec_repCmpsb (s : State) :
    exec .repCmpsb s = .next ((State.repeatCompare (s.reg 2).toNat s).advance s len2) := rfl

/-- Settles O50: nothing runs with a count of 0, and else `repeatCompare_effect` says where the loop stops. -/
theorem repeatCompareRule : Obligations.RepeatCompareRule := by
  refine advances_of rfl rfl exec_repCmpsb fun s => ?_
  intro n left right
  simp only [n]
  cases hn : (s.reg 2).toNat with
  | zero => exact unchanged_advance s len2
  | succ m =>
    obtain ⟨k, hk, hequal, hstop, h2, h4, h5, hz, hc, hframe⟩ := repeatCompare_effect m s hn
    rw [if_neg (Nat.succ_ne_zero m)]
    exact ⟨k, hk, hequal, hstop, h2, h4, h5, hz, hc, hframe.advance _ _⟩

end Sys2Proof.Machine
end

section
/-!
PROOFS. The services (O51 to O54): the fields of a disk request, the disk service by the law of its sector loop, and the teletype.
-/

namespace Sys2Proof.Machine

/-! ## The fields of a disk request -/

/-- Settles O52: each field is a slice of a register, and the destination's sum does not overflow. -/
theorem diskRequestFields : Obligations.DiskRequestFields := by
  intro s q
  refine ⟨?_, ?_, ?_, ?_, ?_, ?_⟩
  · simp [q, State.diskRequest, BitVec.extractLsb'_toNat]
  · simp [q, State.diskRequest, BitVec.extractLsb'_toNat]
  · simp [q, State.diskRequest, BitVec.extractLsb'_toNat, Nat.shiftRight_eq_div_pow]
  · simp [q, State.diskRequest, BitVec.extractLsb'_toNat, Nat.shiftRight_eq_div_pow]
  · have hes := (s.seg .es).isLt
    simp only [q, State.diskRequest, State.regLow16, BitVec.toNat_add, BitVec.toNat_mul, BitVec.toNat_setWidth,
      BitVec.extractLsb'_toNat, BitVec.toNat_ofNat, Nat.shiftRight_zero]
    omega
  · simp only [diskOffset, Config.heads, Config.sectorsPerTrack, Config.sectorSize]
    push_cast
    ring

theorem diskRequest_count_lt (s : State) : s.diskRequest.count < 256 := BitVec.isLt _

/-! ## The disk service -/

theorem exec_int_disk (s : State) : exec (.int 0x13#8) s = .next (s.diskRead.advance s len2) := rfl

/-- The sector loop past its first `m` sectors, all readable (R396). -/
theorem State.diskRead_eq (s : State) {m extra : Nat} (hcount : s.diskRequest.count = m + extra)
    (hread : ∀ j, j < m → sectorReadable s s.diskRequest j) :
    s.diskRead = State.readSectors s.diskRequest extra m
      (s.copyBytes s.diskRequest.dest (sectorBytes s s.diskRequest m)) := by
  have hloop := s.readSectors_readable s.diskRequest m hread extra m 0 (Nat.zero_add m)
  simp only [sectorBytes, Nat.mul_zero, List.take_zero, State.copyBytes] at hloop
  rw [State.diskRead, hcount, hloop]
  rfl

/-- The copy of the first `m` sectors, all readable (R396). -/
theorem stores_sectors (s : State) {m : Nat} (hm : m ≤ s.diskRequest.count)
    (hread : ∀ j, j < m → sectorReadable s s.diskRequest j) :
    Stores s (s.copyBytes s.diskRequest.dest (sectorBytes s s.diskRequest m)) [] [cfBit] s.diskRequest.dest
      (sectorBytes s s.diskRequest m) (lastWritten s.diskRequest.dest (512 * m) s.lwa)
      (copyOutputs s.setup.hooks s.diskRequest.dest (sectorBytes s s.diskRequest m)) := by
  have hlen := sectorBytes_length hread
  have hcount := diskRequest_count_lt s
  have hstore := stores_copyBytes [] [cfBit] s s.diskRequest.dest (sectorBytes s s.diskRequest m) (by omega)
  rwa [hlen] at hstore

/-- A disk read whose sectors are all readable (R396). -/
theorem diskRead_copies (s : State) (hread : ∀ j, j < s.diskRequest.count → sectorReadable s s.diskRequest j) :
    s.diskRead.cf = false ∧
      Stores s s.diskRead [] [cfBit] s.diskRequest.dest (sectorBytes s s.diskRequest s.diskRequest.count)
        (lastWritten s.diskRequest.dest (512 * s.diskRequest.count) s.lwa)
        (copyOutputs s.setup.hooks s.diskRequest.dest (sectorBytes s s.diskRequest s.diskRequest.count)) := by
  rw [s.diskRead_eq (extra := 0) rfl hread, State.readSectors]
  exact ⟨State.cf_setCF _ _, (stores_sectors s le_rfl hread).setFlag (by simp) (by decide) _⟩

/-- A disk read that fails at sector `m` (R389, R397). -/
theorem diskRead_fails (s : State) {m : Nat} (hm : m < s.diskRequest.count)
    (hread : ∀ j, j < m → sectorReadable s s.diskRequest j) (hbad : ¬sectorReadable s s.diskRequest m) :
    let q := s.diskRequest
    s.diskRead.cf = true ∧
      Stores s s.diskRead [] [cfBit] q.dest (sectorBytes s q m) (lastWritten q.dest (512 * m) s.lwa)
        (copyOutputs s.setup.hooks q.dest (sectorBytes s q m) ++
          [.diag (.diskIo s.pc q.cylinder q.head q.sector
            (diskOffset q.cylinder q.head q.sector + 512 * (m : Int)))]) := by
  intro q
  obtain ⟨extra, hextra⟩ := Nat.exists_eq_add_of_lt hm
  have hfail : s.diskRead = (s.copyBytes q.dest (sectorBytes s q m)).diskFail q
      (diskOffset q.cylinder q.head q.sector + 512 * (m : Int)) := by
    rw [s.diskRead_eq (extra := extra + 1) hextra hread, State.readSectors]
    simp only [State.copyBytes_setup, diskOffset_sector, sectorAt_of_not_readable hbad, q]
  rw [hfail, State.diskFail, State.copyBytes_pc]
  exact ⟨State.cf_setCF _ _, ((stores_sectors s hm.le hread).emit _).setFlag (by simp) (by decide) _⟩

/-- Settles O53: the sector loop ends after the last sector, with CF cleared. -/
theorem diskReadCopiesSectors : Obligations.DiskReadCopiesSectors := by
  intro s q hread
  obtain ⟨hcf, hstore⟩ := diskRead_copies s hread
  exact ⟨_, exec_int_disk s, rfl, hcf, hstore.advance _ _⟩

/-- Settles O54: the sector loop is left at sector `m`, with the report and CF set. -/
theorem diskReadFailsAtFirstBadSector : Obligations.DiskReadFailsAtFirstBadSector := by
  intro s m q hm hread hbad
  obtain ⟨hcf, hstore⟩ := diskRead_fails s hm hread hbad
  exact ⟨_, exec_int_disk s, rfl, hcf, hstore.advance _ _⟩

/-- What a disk read leaves alone, whether or not a sector fails. -/
theorem keepsRest_diskRead (s : State) : KeepsRest s s.diskRead [] [cfBit] := by
  by_cases hall : ∀ j, j < s.diskRequest.count → sectorReadable s s.diskRequest j
  · obtain ⟨-, hstore⟩ := diskRead_copies s hall
    exact hstore.toKeepsRest
  · classical
    push Not at hall
    obtain ⟨hm, hbad⟩ := Nat.find_spec hall
    have hread : ∀ j, j < Nat.find hall → sectorReadable s s.diskRequest j := fun j hj => by
      by_contra h
      exact Nat.find_min hall hj ⟨hj.trans hm, h⟩
    obtain ⟨-, hstore⟩ := diskRead_fails s hm hread hbad
    exact hstore.toKeepsRest

/-! ## The teletype -/

theorem exec_int_teletype (s : State) : exec (.int 0x10#8) s = .next (s.teletype.advance s len2) := rfl

/-- An interrupt number that is no key of the service table (R340). -/
theorem exec_int_of_ne {n : Byte} (htty : n ≠ 0x10#8) (hdisk : n ≠ 0x13#8) (s : State) :
    exec (.int n) s = .next (s.advance s len2) := by
  have hlookup : serviceTable.lookup n = none := by
    simp [serviceTable, List.lookup, Config.intTty, Config.intDisk, beq_false_of_ne htty, beq_false_of_ne hdisk]
  change Host.Outcome.next ((s.softwareInterrupt n).advance s len2) = _
  rw [State.softwareInterrupt, hlookup]

/-- A one-byte access holds its start address alone. -/
theorem inAccess_one (a x : Word) : inAccess a 1 x = decide (x = a) := by
  simp [inAccess_succ, inAccess_zero]

/-- What a byte reads after a write access of one byte. -/
theorem State.readByte_memWrite_one (s : State) (a x : Word) (b : Byte) :
    (s.memWrite a [b]).readByte x = if inRange x = true ∧ x = a then b else s.readByte x := by
  rw [State.readByte_memWrite _ _ _ _ (by simp)]
  simp only [List.length_singleton, inAccess_one, Bool.and_eq_true, decide_eq_true_eq]
  split_ifs with h
  · simp [h.2]
  · rfl

/-- The advance of the cursor changes the cursor alone. -/
theorem State.advanceCursor_eq (s : State) :
    s.advanceCursor = s.setCursor s.advanceCursor.curRow s.advanceCursor.curCol := by
  unfold State.advanceCursor
  split <;> rfl

/-- Where the cursor goes (R395). -/
theorem advanceCursor_position (s : State) :
    if s.curCol + 1 = s.setup.textCols then
      s.advanceCursor.curCol = 0 ∧
        s.advanceCursor.curRow = if (s.curRow : Int) < s.setup.textRows - 1 then s.curRow + 1 else s.curRow
    else s.advanceCursor.curCol = s.curCol + 1 ∧ s.advanceCursor.curRow = s.curRow := by
  have hrow : (s.curRow : Int) < s.setup.textRows - 1 ↔ s.curRow + 1 < s.setup.textRows := by omega
  unfold State.advanceCursor
  by_cases hcol : s.curCol + 1 = s.setup.textCols
  · simp [hcol, hrow]
  · simp [hcol]

/-- The two writes of the teletype, before the cursor advances (R394). -/
def State.teletyped (s : State) : State :=
  (s.memWrite s.cursorCell [(s.reg 0).setWidth 8]).memWrite (s.cursorCell + 1#32) [0x07#8]

theorem State.teletype_eq (s : State) : s.teletype = s.teletyped.advanceCursor := rfl

theorem State.readByte_teletyped (s : State) (x : Word) :
    s.teletyped.readByte x =
      if inRange x = true ∧ x = s.cursorCell then (s.reg 0).setWidth 8
      else if inRange x = true ∧ x = s.cursorCell + 1#32 then 0x07#8 else s.readByte x := by
  rw [State.teletyped, State.readByte_memWrite_one, State.readByte_memWrite_one]
  have hdistinct : s.cursorCell ≠ s.cursorCell + 1#32 := by bv_omega
  by_cases hx : x = s.cursorCell
  · simp [hx, hdistinct]
  · simp [hx]

/-- Settles O51: the teletype is two write accesses and the advance of the cursor; the disk service keeps the rest by the results of
its two outcomes. -/
theorem softwareInterruptRule : Obligations.SoftwareInterruptRule := by
  intro n
  by_cases htty : n = 0x10#8
  · subst htty
    refine advances_of rfl rfl exec_int_teletype fun s => ?_
    simp only [if_true]
    have hposition := advanceCursor_position s.teletyped
    have hread := s.readByte_teletyped
    rw [s.teletype_eq, s.teletyped.advanceCursor_eq]
    simp only [State.teletyped, State.memWrite_curCol, State.memWrite_curRow, State.memWrite_setup] at hposition
    refine ⟨?_, ?_, ?_, ?_, ?_, ?_, ?_, ?_, ?_, ?_, hread, ?_, hposition⟩ <;> simp [State.teletyped, State.cursorCell]
  · by_cases hdisk : n = 0x13#8
    · subst hdisk
      refine advances_of rfl rfl exec_int_disk fun s => ?_
      exact { keepsRest_diskRead s with }
    · refine advances_of (body := id) rfl rfl (exec_int_of_ne htty hdisk) fun s => ?_
      simp only [if_neg htty, if_neg hdisk]
      exact unchanged_advance s len2

end Sys2Proof.Machine
end

section
/-!
PROOFS. System instructions (O56 to O60): the two pushes of SYSCALL as one region, the two pops of SYSRET, CPUID, RDTSC and MOVSEG.
-/

namespace Sys2Proof.Machine

/-! ## Two regions stored -/

theorem KeepsRest.trans {s t u : State} {rs : List (Fin 8)} {bits : List Nat} (h : KeepsRest s t rs bits)
    (h' : KeepsRest t u rs bits) : KeepsRest s u rs bits where
  regs := fun i hi => (h'.regs i hi).trans (h.regs i hi)
  flags := fun k hk => (h'.flags k hk).trans (h.flags k hk)
  segs := h'.segs.trans h.segs
  curRow := h'.curRow.trans h.curRow
  curCol := h'.curCol.trans h.curCol
  cycles := h'.cycles.trans h.cycles
  run := h'.run.trans h.run
  bpos := h'.bpos.trans h.bpos
  batch := h'.batch.trans h.batch
  setup := h'.setup.trans h.setup
  shutdownAt := h'.shutdownAt.trans h.shutdownAt

theorem toNat_sub_add_ofNat {a x : Word} {m : Nat} (hm : m < 2 ^ 32) (h : m ≤ (x - a).toNat) :
    (x - a).toNat = m + (x - (a + BitVec.ofNat 32 m)).toNat := by
  have hofNat : (BitVec.ofNat 32 m).toNat = m := by rw [BitVec.toNat_ofNat, Nat.mod_eq_of_lt hm]
  generalize BitVec.ofNat 32 m = n at hofNat
  bv_omega

/-- A region stored, then the region just below it. -/
theorem Stores.append_below {s t u : State} {rs : List (Fin 8)} {bits : List Nat} {a : Word} {low high : List Byte}
    {first last : Option Word} {new new' : List Event}
    (h : Stores s t rs bits (a + BitVec.ofNat 32 low.length) high first new)
    (h' : Stores t u rs bits a low last new') (hlow : low.length < 2 ^ 32) :
    Stores s u rs bits a (low ++ high) last (new ++ new') where
  toKeepsRest := h.toKeepsRest.trans h'.toKeepsRest
  lwa := h'.lwa
  stored := by
    intro x hx hr
    rw [inAccess, decide_eq_true_eq, List.length_append] at hx
    by_cases hin : (x - a).toNat < low.length
    · rw [h'.stored x (decide_eq_true hin) hr, List.getD_append _ _ _ _ hin]
    · have hoffset := toNat_sub_add_ofNat hlow (Nat.not_lt.mp hin)
      rw [h'.outside x (decide_eq_false hin), h.stored x (decide_eq_true (by omega)) hr,
        List.getD_append_right _ _ _ _ (Nat.not_lt.mp hin)]
      congr 1
      omega
  outside := by
    intro x hx
    rw [inAccess, decide_eq_false_iff_not, List.length_append] at hx
    have hoffset := toNat_sub_add_ofNat (x := x) (a := a) hlow (by omega)
    rw [h'.outside x (decide_eq_false (by omega)), h.outside x (decide_eq_false (by omega))]
  events := by rw [h'.events, h.events, List.append_assoc]

/-! ## SYSCALL and SYSRET -/

theorem exec_syscall (s : State) : exec .syscall s = .next (s.enterHandler (s.pc + 2#32)) := rfl

theorem exec_sysret (s : State) : exec .sysret s = .next s.returnFromHandler := rfl

/-- All the entry into the handler does (R346, R398). -/
theorem enterHandler_effect (s : State) (ret : Word) :
    let t := s.enterHandler ret
    t.pc = s.setup.syscallHandler ∧ t.reg 7 = s.reg 7 - 8#32 ∧
      Stores s t [7] [] (s.reg 7 - 8#32) (bytes32 ret ++ bytes32 s.flags) (some (s.reg 7 - 8#32))
        (storeOutputs s.setup.hooks (s.reg 7 - 4#32) (bytes32 s.flags) ++
          storeOutputs s.setup.hooks (s.reg 7 - 8#32) (bytes32 ret)) := by
  obtain ⟨hsp, hflags⟩ := pushWord_effect s s.flags
  obtain ⟨hsp', hret⟩ := pushWord_effect (s.pushWord s.flags) ret
  have height : s.reg 7 - 4#32 - 4#32 = s.reg 7 - 8#32 := by bv_omega
  have habove : s.reg 7 - 4#32 = s.reg 7 - 8#32 + 4#32 := by bv_omega
  rw [hsp, height] at hsp' hret
  rw [OneStore, hflags.setup] at hret
  refine ⟨?_, hsp', ?_⟩
  · exact congrArg Setup.syscallHandler (hret.setup.trans hflags.setup)
  · rw [OneStore, habove] at hflags
    rw [habove]
    exact (hflags.append_below hret (by simp)).setPc _

/-- Settles O56: SYSCALL is the entry into the handler with the address of the next instruction. -/
theorem syscallRule : Obligations.SyscallRule :=
  ⟨rfl, fun s => ⟨_, exec_syscall s, enterHandler_effect s _⟩⟩

/-- Equal bytes give equal words. -/
theorem State.readWord_congr {s t : State} (h : ∀ x, t.readByte x = s.readByte x) (a : Word) :
    t.readWord a = s.readWord a := by
  simp only [State.readWord, h]

/-- All the return from the handler does (R347, R399). -/
theorem returnFromHandler_effect (s : State) :
    let t := s.returnFromHandler
    t.pc = s.readWord (s.reg 7) ∧ t.flags = s.readWord (s.reg 7 + 4#32) ∧ t.reg 7 = s.reg 7 + 8#32 ∧
      NoStore s t [7] (List.range 32) (readReport (s.reg 7) 4 ++ readReport (s.reg 7 + 4#32) 4) := by
  obtain ⟨hsp, hfirst⟩ := noStore_popped s 4
  obtain ⟨hsp', hsecond⟩ := noStore_popped (s.popped 4) 4
  rw [hsp] at hsp' hsecond
  refine ⟨rfl, ?_, ?_, ?_⟩
  · rw [← hsp]
    exact State.readWord_congr hfirst.memory _
  · have height : s.reg 7 + 4#32 + 4#32 = s.reg 7 + 8#32 := by bv_omega
    exact hsp'.trans height
  · have hframe := (hfirst.trans hsecond).mono (rs' := [7]) (bits' := List.range 32) (by simp) (by simp)
    refine (hframe.setPc _).setFlags _ fun k hk => ?_
    have hk' : 32 ≤ k := by simpa using hk
    rw [State.flag, BitVec.getLsbD_of_ge _ _ hk', BitVec.getLsbD_of_ge _ _ hk']

/-- Settles O57: SYSRET is the return from the handler. -/
theorem sysretRule : Obligations.SysretRule :=
  ⟨rfl, fun s => ⟨_, exec_sysret s, returnFromHandler_effect s⟩⟩

/-- The two cells that SYSCALL pushed, read back. -/
theorem Stores.readWord_pair {s t : State} {rs : List (Fin 8)} {bits : List Nat} {a v w : Word} {last : Option Word}
    {new : List Event} (h : Stores s t rs bits a (bytes32 v ++ bytes32 w) last new) (hspan : spanInRange a 8 = true) :
    t.readWord a = v ∧ t.readWord (a + 4#32) = w := by
  have hbyte : ∀ k, k < 8 → t.readByte (a + BitVec.ofNat 32 k) = (bytes32 v ++ bytes32 w).getD k 0#8 :=
    fun k hk => h.readByte_offset (by simpa using hspan) (by simpa using hk) (by simp)
  have h0 := hbyte 0 (by decide)
  rw [BitVec.add_zero] at h0
  constructor
  · rw [State.readWord, h0, hbyte 1 (by decide), hbyte 2 (by decide), hbyte 3 (by decide)]
    exact le32_bytes v
  · rw [State.readWord, BitVec.add_assoc, BitVec.add_assoc, BitVec.add_assoc, hbyte 4 (by decide)]
    rw [show (4#32 + 1#32 : Word) = BitVec.ofNat 32 5 from rfl, show (4#32 + 2#32 : Word) = BitVec.ofNat 32 6 from rfl,
      show (4#32 + 3#32 : Word) = BitVec.ofNat 32 7 from rfl, hbyte 5 (by decide), hbyte 6 (by decide), hbyte 7 (by decide)]
    exact le32_bytes w

/-- Settles O58: SYSRET pops the two cells that SYSCALL pushed. -/
theorem syscallThenSysret : Obligations.SyscallThenSysret := by
  intro s t u hspan hcall hret
  obtain ⟨-, hsp, hstore⟩ := enterHandler_effect s (s.pc + 2#32)
  obtain ⟨hpc, hflags, hsp', hframe⟩ := returnFromHandler_effect (s.enterHandler (s.pc + 2#32))
  obtain ⟨hcellPc, hcellFlags⟩ := hstore.readWord_pair hspan
  have ht : s.enterHandler (s.pc + 2#32) = t := Host.Outcome.next.inj ((exec_syscall s).symm.trans hcall)
  subst ht
  have hu : (s.enterHandler (s.pc + 2#32)).returnFromHandler = u := Host.Outcome.next.inj ((exec_sysret _).symm.trans hret)
  subst hu
  refine ⟨?_, ?_, fun j => ?_⟩
  · rw [hpc, hsp, hcellPc]
  · rw [hflags, hsp, hcellFlags]
  · by_cases hj : j = 7
    · rw [hj, hsp', hsp, BitVec.sub_add_cancel]
    · exact (hframe.regs j (by simpa using hj)).trans (hstore.regs j (by simpa using hj))

/-! ## CPUID, RDTSC and MOVSEG -/

theorem exec_cpuid (s : State) :
    exec .cpuid s = .next (((((s.setReg 0 (cpuidWordsOf s.setup (s.reg 0)).w0).setReg 1
      (cpuidWordsOf s.setup (s.reg 0)).w1).setReg 2 (cpuidWordsOf s.setup (s.reg 0)).w2).setReg 3
      (cpuidWordsOf s.setup (s.reg 0)).w3).advance s len2) := rfl

theorem exec_rdtsc (s : State) :
    exec .rdtsc s = .next (((s.setReg 0 (lowWord s.cycles)).setReg 1 (highWord s.cycles)).advance s len2) := rfl

/-- Settles O59: the halves of the counter joined are the counter. -/
theorem identificationAndCounterRules : Obligations.IdentificationAndCounterRules := by
  refine ⟨advances_of rfl rfl exec_cpuid fun s => ?_, advances_of rfl rfl exec_rdtsc fun s => ?_⟩
  · refine ⟨by simp [State.reg_setReg], by simp [State.reg_setReg], by simp [State.reg_setReg], by simp, ?_⟩
    exact (((((NoStore.refl s _ _).setReg (by simp) _).setReg (by simp) _).setReg (by simp) _).setReg (by simp) _).advance _ _
  · refine ⟨?_, (((NoStore.refl s _ _).setReg (by simp) _).setReg (by simp) _).advance _ _⟩
    rw [State.advance_reg, State.advance_reg, State.reg_setReg_self, State.reg_setReg_ne _ (by decide),
      State.reg_setReg_self, ← toNat_append_words, highWord_append_lowWord]

theorem exec_movseg {k : BitVec 3} {sel : Sel} (h : Sel.ofField k = some sel) (r : BitVec 3) (s : State) :
    exec (.movseg k r) s = .next ((s.setSeg sel ((s.reg (regOfField r)).setWidth 16)).advance s len2) := by
  change execMovseg k r s = _
  rw [execMovseg, h]
  rfl

theorem movseg_rule {k : BitVec 3} {sel : Sel} (h : Sel.ofField k = some sel) (r : BitVec 3) :
    Advances (.movseg k r) [0x8E#8, 0b00#2 ++ k ++ r] fun s t =>
      t.seg sel = (s.reg (regOfField r)).setWidth 16 ∧ (∀ q, q ≠ sel → t.seg q = s.seg q) ∧
      NoStore s { t with segs := s.segs } [] [] [] :=
  advances_of rfl rfl (exec_movseg h r) fun s =>
    ⟨by simp [State.seg_setSeg], fun q hq => by simp [State.seg_setSeg, hq], unchanged_advance s len2⟩

/-- Settles O60: each field of 0 to 5 names its selector. -/
theorem segmentLoadRule : Obligations.SegmentLoadRule := by
  intro k r
  fin_cases k <;> exact movseg_rule rfl r

end Sys2Proof.Machine
end

section
/-!
PROOFS. What an instruction can do, said once: it is a list of updates of the state (`exec_completesByUpdates`), each of a kind that the
instruction may do, and the list depends neither on lwa nor on the outputs. The whole-machine rules (O8, O15 to O20) and the
invariant (O11) are then facts about one update, carried along the list.
-/

namespace Sys2Proof.Machine

/-! ## Updates -/

/-- One update of the state: what the meanings are made of. -/
inductive Update where
  /-- A register write. -/
  | reg (j : Fin 8) (v : Word)
  /-- A write of one flag bit. -/
  | flag (k : Nat) (b : Bool)
  /-- A write of the whole flags word. -/
  | flags (w : Word)
  /-- A write of pc. -/
  | pc (v : Word)
  /-- A selector write. -/
  | sel (k : Sel) (v : Half)
  /-- The report of a data read. -/
  | read (a : Word) (n : Nat)
  /-- A diagnostic. -/
  | report (d : Diag)
  /-- A write access. -/
  | write (a : Word) (bytes : List Byte)
  /-- The advance of the teletype cursor. -/
  | cursor

/-- The state after an update. -/
def State.apply (s : State) : Update → State
  | .reg j v => s.setReg j v
  | .flag k b => s.setFlag k b
  | .flags w => s.setFlags w
  | .pc v => s.setPc v
  | .sel k v => s.setSeg k v
  | .read a n => s.noteRead a n
  | .report d => s.raise d
  | .write a bytes => s.memWrite a bytes
  | .cursor => s.advanceCursor

/-- The state after updates, the first one first. -/
def State.applyAll (s : State) (us : List Update) : State := us.foldl State.apply s

/-- The updates that an instruction may do: of the registers, flag bits and storage that the tables of the whole-machine rules give
it; bit 9 it may only set, unless it writes the flags word whole, and it never reports a pc out of range. -/
def Update.Allowed (i : Instr) : Update → Prop
  | .reg j _ => mayWriteRegister j i = true
  | .flag k b => mayWriteFlag k i = true ∧ k < 32 ∧ (k = 9 → b = true)
  | .flags _ => i = .sysret
  | .pc _ => True
  | .sel _ _ => ∃ k r, i = .movseg k r
  | .read _ _ => True
  | .report d => ∀ p, d ≠ .ipOutOfRange p
  | .write _ _ => mayStore i = true
  | .cursor => i = .int 0x10#8

/-- What an update outputs. -/
def Update.outputs (hooks : List Hook) : Update → List Event
  | .read a n => readReport a n
  | .report d => [.diag d]
  | .write a bytes => storeOutputs hooks a bytes
  | _ => []

/-- lwa after an update. -/
def Update.lwaAfter (l : Option Word) : Update → Option Word
  | .write a _ => some a
  | _ => l

/-- The state with another last-write address and other outputs before. -/
def State.withPast (s : State) (l : Option Word) (es : List Event) : State := { s with lwa := l, events := es }

@[simp] theorem State.applyAll_nil (s : State) : s.applyAll [] = s := rfl
@[simp] theorem State.applyAll_cons (s : State) (u : Update) (us : List Update) :
    s.applyAll (u :: us) = (s.apply u).applyAll us := rfl

theorem State.applyAll_append (s : State) (us vs : List Update) :
    s.applyAll (us ++ vs) = (s.applyAll us).applyAll vs := List.foldl_append

/-- What every update keeps, the list keeps. -/
theorem State.applyAll_induct {P : State → Prop} {us : List Update} (h : ∀ u ∈ us, ∀ t, P t → P (t.apply u)) {s : State}
    (hs : P s) : P (s.applyAll us) := by
  induction us generalizing s with
  | nil => exact hs
  | cons u us ih =>
    exact ih (fun v hv => h v (List.mem_cons_of_mem _ hv)) (h u List.mem_cons_self s hs)

/-- What no update changes, the list does not change. -/
theorem State.applyAll_keeps {α : Type} (p : State → α) {us : List Update} (h : ∀ u ∈ us, ∀ t, p (t.apply u) = p t)
    (s : State) : p (s.applyAll us) = p s :=
  State.applyAll_induct (P := fun t => p t = p s) (fun u hu t ht => (h u hu t).trans ht) rfl

@[simp] theorem State.advanceCursor_withPast (s : State) (l : Option Word) (es : List Event) :
    (s.withPast l es).advanceCursor = s.advanceCursor.withPast l es := by
  unfold State.advanceCursor
  rw [apply_ite (State.withPast · l es)]
  rfl

@[simp] theorem State.apply_setup (s : State) (u : Update) : (s.apply u).setup = s.setup := by
  cases u <;> simp [State.apply]
  rw [State.advanceCursor_eq]; rfl

/-- An update does not read lwa and the outputs; it may write the one and append to the other. -/
theorem State.apply_withPast (s : State) (u : Update) (l : Option Word) (es : List Event) :
    (s.withPast l es).apply u = (s.apply u).withPast (u.lwaAfter l) (es ++ u.outputs s.setup.hooks) := by
  cases u with
  | read a n => simp only [State.apply, State.noteRead_eq]; rfl
  | write a bytes => simp only [State.apply, State.memWrite_eq]; rfl
  | report d => rfl
  | cursor => simp [State.apply, Update.lwaAfter, Update.outputs]
  | _ => simp [Update.lwaAfter, Update.outputs]; rfl

theorem State.applyAll_withPast (s : State) (us : List Update) (l : Option Word) (es : List Event) :
    (s.withPast l es).applyAll us =
      (s.applyAll us).withPast (us.foldl Update.lwaAfter l) (es ++ us.flatMap (Update.outputs s.setup.hooks)) := by
  induction us generalizing s l es with
  | nil => simp
  | cons u us ih => simp [State.apply_withPast, ih]

/-! ## Functions that are updates -/

/-- From `s`, whatever its lwa and its outputs, `f` is one list of updates that `i` may do. -/
def UpdatesOf (i : Instr) (s : State) (f : State → State) : Prop :=
  ∃ us : List Update, us.Forall (Update.Allowed i) ∧ ∀ l es, f (s.withPast l es) = (s.withPast l es).applyAll us

/-- From `s`, whatever its lwa and its outputs, `i` completes and is one list of updates that it may do. -/
def CompletesByUpdates (i : Instr) (s : State) : Prop :=
  ∃ us : List Update, us.Forall (Update.Allowed i) ∧ ∀ l es, exec i (s.withPast l es) = .next ((s.withPast l es).applyAll us)

theorem forall_concat {P : Update → Prop} {us : List Update} {u : Update} (hus : us.Forall P) (hu : P u) :
    (us ++ [u]).Forall P :=
  List.forall_append.mpr ⟨hus, hu⟩

/-- A flag bit below bit 9 may be written either way. -/
theorem allowed_flag {i : Instr} {k : Nat} {b : Bool} (hflag : mayWriteFlag k i = true) (hk : k < 9) :
    (Update.flag k b).Allowed i :=
  ⟨hflag, by omega, fun h => absurd h hk.ne⟩

section
variable {i : Instr} {s : State} {f g : State → State}

theorem UpdatesOf.trans (hf : UpdatesOf i s f) (hg : UpdatesOf i (f s) g) : UpdatesOf i s fun t => g (f t) := by
  obtain ⟨us, hus, hf⟩ := hf
  obtain ⟨vs, hvs, hg⟩ := hg
  have hfs : f s = s.applyAll us := hf s.lwa s.events
  refine ⟨us ++ vs, List.forall_append.mpr ⟨hus, hvs⟩, fun l es => ?_⟩
  rw [hfs] at hg
  show g (f (s.withPast l es)) = _
  rw [hf, State.applyAll_append, State.applyAll_withPast, hg]

theorem UpdatesOf.completes (hf : UpdatesOf i s f) (hexec : ∀ t, exec i t = .next (f t)) : CompletesByUpdates i s := by
  obtain ⟨us, hus, hf⟩ := hf
  exact ⟨us, hus, fun l es => by rw [hexec, hf]⟩

/-- An instruction that writes no pc (R141). -/
theorem UpdatesOf.completes_advance {len : Word} (hf : UpdatesOf i s f)
    (hexec : ∀ t, exec i t = .next ((f t).advance t len)) : CompletesByUpdates i s := by
  obtain ⟨us, hus, hf⟩ := hf
  refine ⟨us ++ [.pc (s.next len)], forall_concat (u := .pc (s.next len)) hus trivial, fun l es => ?_⟩
  rw [hexec, hf, State.applyAll_append]
  rfl

theorem updatesOf_id : UpdatesOf i s id := ⟨[], trivial, fun _ _ => rfl⟩

theorem UpdatesOf.congr (hg : UpdatesOf i s g) (h : ∀ l es, f (s.withPast l es) = g (s.withPast l es)) :
    UpdatesOf i s f := by
  obtain ⟨us, hus, hg⟩ := hg
  exact ⟨us, hus, fun l es => (h l es).trans (hg l es)⟩

/-- A choice that does not depend on lwa and the outputs. -/
theorem UpdatesOf.ite {c : State → Prop} [∀ t, Decidable (c t)] (hf : UpdatesOf i s f) (hg : UpdatesOf i s g)
    (hc : ∀ l es, c (s.withPast l es) ↔ c s) : UpdatesOf i s fun t => if c t then f t else g t := by
  by_cases h : c s
  · exact hf.congr fun l es => if_pos ((hc l es).mpr h)
  · exact hg.congr fun l es => if_neg fun h' => h ((hc l es).mp h')

/-- An instruction behind a one-register guard (R16). -/
theorem completes_of_guard1 {r : Byte} {len : Word} {body : State → Fin 8 → State}
    (hexec : ∀ t, exec i t = guard1 r len t (body t))
    (hbody : ∀ j : Fin 8, r.toNat = j.val → UpdatesOf i s fun t => body t j) : CompletesByUpdates i s := by
  by_cases hr : r.toNat < 8
  · exact (hbody ⟨r.toNat, hr⟩ rfl).completes_advance (len := len)
      fun t => by rw [hexec, guard1, regIndex?_of_lt hr]
  · exact updatesOf_id.completes_advance (len := len)
      fun t => by rw [hexec, guard1, regIndex?_of_ge (Nat.not_lt.mp hr)]; rfl

/-- An instruction behind a two-register guard (R16). -/
theorem completes_of_guard2 {d e : Byte} {len : Word} {body : State → Fin 8 → Fin 8 → State}
    (hexec : ∀ t, exec i t = guard2 d e len t (body t))
    (hbody : ∀ j k : Fin 8, d.toNat = j.val → UpdatesOf i s fun t => body t j k) : CompletesByUpdates i s := by
  by_cases hd : d.toNat < 8
  · by_cases he : e.toNat < 8
    · exact (hbody ⟨d.toNat, hd⟩ ⟨e.toNat, he⟩ rfl).completes_advance (len := len)
        fun t => by rw [hexec, guard2, regIndex?_of_lt hd, regIndex?_of_lt he]
    · exact updatesOf_id.completes_advance (len := len)
        fun t => by rw [hexec, guard2, regIndex?_of_lt hd, regIndex?_of_ge (Nat.not_lt.mp he)]; rfl
  · exact updatesOf_id.completes_advance (len := len)
      fun t => by rw [hexec, guard2, regIndex?_of_ge (Nat.not_lt.mp hd)]; rfl

/-- A jump: one write of pc. -/
theorem completes_of_setPc {target : State → Word} (hexec : ∀ t, exec i t = .next (t.setPc (target t)))
    (htarget : ∀ l es, target (s.withPast l es) = target s) : CompletesByUpdates i s :=
  UpdatesOf.completes ⟨[.pc (target s)], trivial, fun l es => by simp only [htarget]; rfl⟩ hexec

/-- The counter loop: x[2] and pc. -/
theorem completes_of_loopTo {len : Word} {target : State → Word} (hexec : ∀ t, exec i t = .next (t.loopTo len (target t)))
    (hreg : mayWriteRegister 2 i = true) (htarget : ∀ l es, target (s.withPast l es) = target s) :
    CompletesByUpdates i s :=
  UpdatesOf.completes
    ⟨[.reg 2 (s.reg 2 - 1#32), .pc (if s.reg 2 - 1#32 = 0#32 then s.next len else target s)], ⟨hreg, trivial⟩,
      fun l es => by simp only [htarget]; rfl⟩ hexec

/-- `State.result` of a value that does not depend on lwa and the outputs. -/
theorem updatesOf_result {j : Fin 8} {v : State → Word} (hreg : mayWriteRegister j i = true)
    (hflag : mayWriteFlag zfBit i = true) (hv : ∀ l es, v (s.withPast l es) = v s) :
    UpdatesOf i s fun t => t.result j (v t) :=
  ⟨[.reg j (v s), .flag zfBit (v s == 0#32)], ⟨hreg, allowed_flag hflag (by decide)⟩,
    fun l es => by simp only [hv]; rfl⟩

/-- A write of one of the flag bits ZF and CF after other updates. -/
theorem UpdatesOf.setFlag {k : Nat} {b : State → Bool} (hf : UpdatesOf i s f) (hflag : mayWriteFlag k i = true) (hk : k < 9)
    (hb : ∀ l es, b (s.withPast l es) = b s) : UpdatesOf i s fun t => (f t).setFlag k (b t) := by
  obtain ⟨us, hus, hf⟩ := hf
  refine ⟨us ++ [.flag k (b s)], forall_concat hus (allowed_flag hflag hk), fun l es => ?_⟩
  simp only [hf, hb, State.applyAll_append]
  rfl

/-- `State.compareFlags` of numbers that do not depend on lwa and the outputs. -/
theorem updatesOf_compareFlags {a b : State → Nat} (hz : mayWriteFlag zfBit i = true) (hc : mayWriteFlag cfBit i = true)
    (ha : ∀ l es, a (s.withPast l es) = a s) (hb : ∀ l es, b (s.withPast l es) = b s) :
    UpdatesOf i s fun t => t.compareFlags (a t) (b t) :=
  ⟨[.flag zfBit (decide (a s = b s)), .flag cfBit (decide (a s < b s))],
    ⟨allowed_flag hz (by decide), allowed_flag hc (by decide)⟩, fun l es => by simp only [ha, hb]; rfl⟩

/-- `State.wideResult` of values that do not depend on lwa and the outputs. -/
theorem updatesOf_wideResult {low high : State → Word} (hreg0 : mayWriteRegister 0 i = true)
    (hreg1 : mayWriteRegister 1 i = true) (hflag : mayWriteFlag zfBit i = true) (hlow : ∀ l es, low (s.withPast l es) = low s)
    (hhigh : ∀ l es, high (s.withPast l es) = high s) :
    UpdatesOf i s fun t => t.wideResult (low t) (high t) :=
  ⟨[.reg 0 (low s), .reg 1 (high s), .flag zfBit (low s == 0#32)],
    ⟨hreg0, hreg1, allowed_flag hflag (by decide)⟩, fun l es => by simp only [hlow, hhigh]; rfl⟩

/-- The report of a zero divisor. -/
theorem updatesOf_divZero : UpdatesOf i s fun t => t.raise (.divZero t.pc) :=
  ⟨[.report (.divZero s.pc)], nofun, fun _ _ => rfl⟩

/-- What a bit scan does, whether it finds a bit or none. -/
theorem updatesOf_scanned {j : Fin 8} {found : State → Option Nat} (hreg : mayWriteRegister j i = true)
    (hflag : mayWriteFlag zfBit i = true) (hfound : ∀ l es, found (s.withPast l es) = found s) :
    UpdatesOf i s fun t => t.scanned j (found t) := by
  cases hs : found s with
  | none =>
    exact ⟨[.flag zfBit true], allowed_flag hflag (by decide), fun l es => by simp only [hfound, hs]; rfl⟩
  | some m =>
    exact ⟨[.flag zfBit false, .reg j (BitVec.ofNat 32 m)], ⟨allowed_flag hflag (by decide), hreg⟩,
      fun l es => by simp only [hfound, hs]; rfl⟩

end

/-! ## Bodies with their reads resolved

Each is a chain of updates whose values are read from the state at its start. -/

theorem State.moveByte_eq (s : State) :
    s.moveByte =
      (((s.noteRead (s.reg 4) 1).memWrite (s.reg 5) [s.readByte (s.reg 4)]).setReg 4 (s.reg 4 + 1#32)).setReg 5
        (s.reg 5 + 1#32) := by
  simp [State.moveByte, State.stepCursors]

theorem State.moveByte_countDown_eq (s : State) :
    s.moveByte.countDown =
      ((((s.noteRead (s.reg 4) 1).memWrite (s.reg 5) [s.readByte (s.reg 4)]).setReg 4 (s.reg 4 + 1#32)).setReg 5
        (s.reg 5 + 1#32)).setReg 2 (s.reg 2 - 1#32) := by
  simp [State.moveByte_eq, State.countDown, State.reg_setReg]

theorem State.compareByte_eq (s : State) :
    s.compareByte =
      ((((s.noteRead (s.reg 4) 1).noteRead (s.reg 5) 1).compareFlags (s.readByte (s.reg 4)).toNat
        (s.readByte (s.reg 5)).toNat).setReg 4 (s.reg 4 + 1#32)).setReg 5 (s.reg 5 + 1#32) := by
  simp [State.compareByte, State.stepCursors]

theorem State.compareByte_countDown_eq (s : State) :
    s.compareByte.countDown =
      (((((s.noteRead (s.reg 4) 1).noteRead (s.reg 5) 1).compareFlags (s.readByte (s.reg 4)).toNat
        (s.readByte (s.reg 5)).toNat).setReg 4 (s.reg 4 + 1#32)).setReg 5 (s.reg 5 + 1#32)).setReg 2 (s.reg 2 - 1#32) := by
  simp [State.compareByte_eq, State.countDown, State.reg_setReg]

theorem State.enterHandler_eq (s : State) (ret : Word) :
    s.enterHandler ret =
      ((((s.setReg 7 (s.reg 7 - 4#32)).memWrite (s.reg 7 - 4#32) (bytes32 s.flags)).setReg 7
        (s.reg 7 - 4#32 - 4#32)).memWrite (s.reg 7 - 4#32 - 4#32) (bytes32 ret)).setPc s.setup.syscallHandler := by
  simp [State.enterHandler, State.pushWord_eq]

theorem State.returnFromHandler_eq (s : State) :
    s.returnFromHandler =
      (((((s.noteRead (s.reg 7) 4).setReg 7 (s.reg 7 + 4#32)).noteRead (s.reg 7 + 4#32) 4).setReg 7
        (s.reg 7 + 4#32 + 4#32)).setPc (s.readWord (s.reg 7))).setFlags (s.readWord (s.reg 7 + 4#32)) := by
  simp [State.returnFromHandler, State.popped, State.sp, State.readWord]

/-! ## The loops and the services -/

theorem updatesOf_repeatMove (n : Nat) (s : State) : UpdatesOf .repMovsb s (State.repeatMove n) := by
  induction n generalizing s with
  | zero => exact updatesOf_id
  | succ n ih =>
    by_cases hzero : s.reg 2 = 0#32
    · exact updatesOf_id.congr fun _ _ => if_pos hzero
    · have hbody : UpdatesOf .repMovsb s fun t => t.moveByte.countDown :=
        ⟨[.read (s.reg 4) 1, .write (s.reg 5) [s.readByte (s.reg 4)], .reg 4 (s.reg 4 + 1#32), .reg 5 (s.reg 5 + 1#32),
          .reg 2 (s.reg 2 - 1#32)], ⟨trivial, rfl, rfl, rfl, rfl⟩, fun _ _ => State.moveByte_countDown_eq _⟩
      exact (hbody.trans (ih _)).congr fun _ _ => if_neg hzero

theorem updatesOf_repeatCompare (n : Nat) (s : State) : UpdatesOf .repCmpsb s (State.repeatCompare n) := by
  induction n generalizing s with
  | zero => exact updatesOf_id
  | succ n ih =>
    by_cases hzero : s.reg 2 = 0#32
    · exact updatesOf_id.congr fun _ _ => if_pos hzero
    · have hbody : UpdatesOf .repCmpsb s fun t => t.compareByte.countDown :=
        ⟨[.read (s.reg 4) 1, .read (s.reg 5) 1,
          .flag zfBit (decide ((s.readByte (s.reg 4)).toNat = (s.readByte (s.reg 5)).toNat)),
          .flag cfBit (decide ((s.readByte (s.reg 4)).toNat < (s.readByte (s.reg 5)).toNat)),
          .reg 4 (s.reg 4 + 1#32), .reg 5 (s.reg 5 + 1#32), .reg 2 (s.reg 2 - 1#32)],
          ⟨trivial, trivial, allowed_flag rfl (by decide), allowed_flag rfl (by decide), rfl, rfl, rfl⟩,
          fun _ _ => State.compareByte_countDown_eq _⟩
      by_cases heq : s.sourceByte 0 = s.destByte 0
      · exact (hbody.trans (ih _)).congr fun l es =>
          (State.repeatCompare_succ (s := s.withPast l es) hzero n).trans (if_pos heq)
      · exact hbody.congr fun l es =>
          (State.repeatCompare_succ (s := s.withPast l es) hzero n).trans (if_neg heq)

theorem updatesOf_copyBytes {i : Instr} (hstore : mayStore i = true) (a : Word) (bytes : List Byte) (s : State) :
    UpdatesOf i s fun t => t.copyBytes a bytes := by
  induction bytes generalizing a s with
  | nil => exact updatesOf_id
  | cons b bs ih =>
    have hwrite : UpdatesOf i s fun t => t.memWrite a [b] := ⟨[.write a [b]], hstore, fun _ _ => rfl⟩
    exact hwrite.trans (ih (a + 1#32) _)

theorem updatesOf_readSectors (q : DiskRequest) (n j : Nat) (s : State) :
    UpdatesOf (.int 0x13#8) s (State.readSectors q n j) := by
  induction n generalizing j s with
  | zero => exact ⟨[.flag cfBit false], allowed_flag rfl (by decide), fun _ _ => rfl⟩
  | succ n ih =>
    let off := diskOffset q.cylinder q.head q.sector + ((j * Config.sectorSize : Nat) : Int)
    cases hsector : sectorAt s.setup.diskImage off with
    | none =>
      refine ⟨[.report (.diskIo s.pc q.cylinder q.head q.sector off), .flag cfBit true],
        ⟨nofun, allowed_flag rfl (by decide)⟩, fun l es => ?_⟩
      have hsector' : sectorAt (s.withPast l es).setup.diskImage off = none := hsector
      simp only [State.readSectors]
      rw [hsector']
      rfl
    | some bytes =>
      refine ((updatesOf_copyBytes rfl (q.dest + BitVec.ofNat 32 (j * Config.sectorSize)) bytes s).trans
        (ih (j + 1) _)).congr fun l es => ?_
      have hsector' : sectorAt (s.withPast l es).setup.diskImage off = some bytes := hsector
      simp only [State.readSectors]
      rw [hsector']

theorem updatesOf_teletype (s : State) : UpdatesOf (.int 0x10#8) s State.teletype :=
  ⟨[.write s.cursorCell [(s.reg 0).setWidth 8], .write (s.cursorCell + 1#32) [0x07#8], .cursor],
    ⟨rfl, rfl, rfl⟩, fun _ _ => rfl⟩

theorem completesByUpdates_int (n : Byte) (s : State) : CompletesByUpdates (.int n) s := by
  by_cases htty : n = 0x10#8
  · subst htty
    exact (updatesOf_teletype s).completes_advance exec_int_teletype
  · by_cases hdisk : n = 0x13#8
    · subst hdisk
      have hdiskRead : UpdatesOf (.int 0x13#8) s State.diskRead :=
        (updatesOf_readSectors s.diskRequest s.diskRequest.count 0 s).congr fun _ _ => rfl
      exact hdiskRead.completes_advance exec_int_disk
    · exact updatesOf_id.completes_advance (exec_int_of_ne htty hdisk)

/-! ## Every instruction -/

/-- A term of MOVSEG whose field names no selector takes the decode error of its bytes (R135). -/
theorem exec_movseg_of_none {k : BitVec 3} (h : Sel.ofField k = none) (r : BitVec 3) (s : State) :
    exec (.movseg k r) s = .next (s.takeDecodeError (encode (.movseg k r))) := by
  change execMovseg k r s = _
  rw [execMovseg, h]

/-- What every instruction does, from every state: the list of its updates. -/
theorem exec_completesByUpdates (i : Instr) (s : State) : CompletesByUpdates i s := by
  cases i with
  | mov d e => exact completes_of_guard2 (exec_mov d e) fun j k hj => ⟨[.reg j (s.reg k)], decide_eq_true hj, fun _ _ => rfl⟩
  | movi r v => exact completes_of_guard1 (exec_movi v r) fun j hj => ⟨[.reg j v], decide_eq_true hj, fun _ _ => rfl⟩
  | lda r a => exact completes_of_guard1 (exec_lda a r) fun j hj =>
      ⟨[.read a 4, .reg j (s.readWord a)], ⟨trivial, decide_eq_true hj⟩, fun _ _ => rfl⟩
  | sta r a => exact completes_of_guard1 (exec_sta a r) fun j hj => ⟨[.write a (bytes32 (s.reg j))], rfl, fun _ _ => rfl⟩
  | ldr d e => exact completes_of_guard2 (exec_ldr d e) fun j k hj =>
      ⟨[.read (s.reg k) 4, .reg j (s.readWord (s.reg k))], ⟨trivial, decide_eq_true hj⟩, fun _ _ => rfl⟩
  | str d e => exact completes_of_guard2 (exec_str d e) fun j k hj =>
      ⟨[.write (s.reg j) (bytes32 (s.reg k))], rfl, fun _ _ => rfl⟩
  | ldzb d e => exact completes_of_guard2 (exec_ldzb d e) fun j k hj =>
      ⟨[.read (s.reg k) 1, .reg j ((s.readByte (s.reg k)).zeroExtend 32)], ⟨trivial, decide_eq_true hj⟩, fun _ _ => rfl⟩
  | ldsb d e => exact completes_of_guard2 (exec_ldsb d e) fun j k hj =>
      ⟨[.read (s.reg k) 1, .reg j ((s.readByte (s.reg k)).signExtend 32)], ⟨trivial, decide_eq_true hj⟩, fun _ _ => rfl⟩
  | strb d e => exact completes_of_guard2 (exec_strb d e) fun j k hj =>
      ⟨[.write (s.reg j) [(s.reg k).setWidth 8]], rfl, fun _ _ => rfl⟩
  | push r => exact completes_of_guard1 (exec_push r) fun j hj =>
      ⟨[.reg 7 (s.reg 7 - 4#32), .write (s.reg 7 - 4#32) (bytes32 (s.reg j))], ⟨rfl, rfl⟩, fun _ _ => State.pushWord_eq _ _⟩
  | pop r => exact completes_of_guard1 (exec_pop r) fun j hj =>
      ⟨[.read (s.reg 7) 4, .reg 7 (s.reg 7 + 4#32), .reg j (s.readWord (s.reg 7))],
        ⟨trivial, Bool.or_true _, Bool.or_eq_true_iff.mpr (.inl (decide_eq_true hj))⟩, fun _ _ => rfl⟩
  | add d e => exact completes_of_guard2 (exec_add d e) fun j k hj => updatesOf_result (decide_eq_true hj) rfl fun _ _ => rfl
  | sub d e => exact completes_of_guard2 (exec_sub d e) fun j k hj => updatesOf_result (decide_eq_true hj) rfl fun _ _ => rfl
  | and d e => exact completes_of_guard2 (exec_and d e) fun j k hj => updatesOf_result (decide_eq_true hj) rfl fun _ _ => rfl
  | or d e => exact completes_of_guard2 (exec_or d e) fun j k hj => updatesOf_result (decide_eq_true hj) rfl fun _ _ => rfl
  | xor d e => exact completes_of_guard2 (exec_xor d e) fun j k hj => updatesOf_result (decide_eq_true hj) rfl fun _ _ => rfl
  | addi r v => exact completes_of_guard1 (exec_addi v r) fun j hj => updatesOf_result (decide_eq_true hj) rfl fun _ _ => rfl
  | subi r v => exact completes_of_guard1 (exec_subi v r) fun j hj => updatesOf_result (decide_eq_true hj) rfl fun _ _ => rfl
  | inc r => exact completes_of_guard1 (exec_inc r) fun j hj => updatesOf_result (decide_eq_true hj) rfl fun _ _ => rfl
  | dec r => exact completes_of_guard1 (exec_dec r) fun j hj => updatesOf_result (decide_eq_true hj) rfl fun _ _ => rfl
  | neg r => exact completes_of_guard1 (exec_neg r) fun j hj => updatesOf_result (decide_eq_true hj) rfl fun _ _ => rfl
  | not r => exact completes_of_guard1 (exec_not r) fun j hj => updatesOf_result (decide_eq_true hj) rfl fun _ _ => rfl
  | shl r c => exact completes_of_guard1 (exec_shl c r) fun j hj => updatesOf_result (decide_eq_true hj) rfl fun _ _ => rfl
  | shr r c => exact completes_of_guard1 (exec_shr c r) fun j hj => updatesOf_result (decide_eq_true hj) rfl fun _ _ => rfl
  | rol r c => exact completes_of_guard1 (exec_rol c r) fun j hj => updatesOf_result (decide_eq_true hj) rfl fun _ _ => rfl
  | ror r c => exact completes_of_guard1 (exec_ror c r) fun j hj => updatesOf_result (decide_eq_true hj) rfl fun _ _ => rfl
  | adc d e => exact completes_of_guard2 (exec_adc d e) fun j k hj =>
      UpdatesOf.setFlag (updatesOf_result (decide_eq_true hj) rfl fun _ _ => rfl) rfl (by decide) fun _ _ => rfl
  | sbb d e => exact completes_of_guard2 (exec_sbb d e) fun j k hj =>
      UpdatesOf.setFlag (updatesOf_result (decide_eq_true hj) rfl fun _ _ => rfl) rfl (by decide) fun _ _ => rfl
  | cmp d e => exact completes_of_guard2 (exec_cmp d e) fun j k hj =>
      updatesOf_compareFlags rfl rfl (fun _ _ => rfl) fun _ _ => rfl
  | cmpi r v => exact completes_of_guard1 (exec_cmpi v r) fun j hj =>
      updatesOf_compareFlags rfl rfl (fun _ _ => rfl) fun _ _ => rfl
  | mul r => exact completes_of_guard1 (exec_mul r) fun j hj =>
      updatesOf_wideResult rfl rfl rfl (fun _ _ => rfl) fun _ _ => rfl
  | imul r => exact completes_of_guard1 (exec_imul r) fun j hj =>
      updatesOf_wideResult rfl rfl rfl (fun _ _ => rfl) fun _ _ => rfl
  | div r => exact completes_of_guard1 (exec_div r) fun j hj =>
      updatesOf_divZero.ite (updatesOf_wideResult rfl rfl rfl (fun _ _ => rfl) fun _ _ => rfl) fun _ _ => Iff.rfl
  | idiv r => exact completes_of_guard1 (exec_idiv r) fun j hj =>
      updatesOf_divZero.ite (updatesOf_wideResult rfl rfl rfl (fun _ _ => rfl) fun _ _ => rfl) fun _ _ => Iff.rfl
  | bsf d e => exact completes_of_guard2 (exec_bsf d e) fun j k hj => updatesOf_scanned (decide_eq_true hj) rfl fun _ _ => rfl
  | bsr d e => exact completes_of_guard2 (exec_bsr d e) fun j k hj => updatesOf_scanned (decide_eq_true hj) rfl fun _ _ => rfl
  | popcnt d e => exact completes_of_guard2 (exec_popcnt d e) fun j k hj =>
      ⟨[.reg j (BitVec.ofNat 32 (setBits (s.reg k)).length), .flag zfBit (s.reg k == 0#32)],
        ⟨decide_eq_true hj, allowed_flag rfl (by decide)⟩, fun _ _ => rfl⟩
  | jmp a | jz a | jnz a | jc a | jnc a | ja a | jb a =>
    exact completes_of_setPc (fun _ => rfl) fun _ _ => rfl
  | jcR8 b | jncR8 b | jzR8 b | jnzR8 b | jaR8 b | jsR8 b | jmpR8 b =>
    exact completes_of_setPc (fun _ => rfl) fun _ _ => rfl
  | jmpR16 h | jaR16 h => exact completes_of_setPc (fun _ => rfl) fun _ _ => rfl
  | loop a | loopR8 b => exact completes_of_loopTo (fun _ => rfl) rfl fun _ _ => rfl
  | call a =>
    exact UpdatesOf.completes (f := fun t => (t.pushWord (t.pc + 5#32)).setPc a)
      ⟨[.reg 7 (s.reg 7 - 4#32), .write (s.reg 7 - 4#32) (bytes32 (s.pc + 5#32)), .pc a], ⟨rfl, rfl, trivial⟩,
        fun _ _ => congrArg (State.setPc · a) (State.pushWord_eq _ _)⟩ (exec_call a)
  | callR16 h =>
    exact UpdatesOf.completes
      ⟨[.reg 7 (s.reg 7 - 2#32), .write (s.reg 7 - 2#32) (bytes16 ((s.pc + 3#32).setWidth 16)), .pc (s.target16 len3 h)],
        ⟨rfl, rfl, trivial⟩, fun _ _ => rfl⟩ (exec_callR16 h)
  | push16 r =>
    exact UpdatesOf.completes_advance
      ⟨[.reg 7 (s.reg 7 - 2#32), .write (s.reg 7 - 2#32) (bytes16 ((s.reg (regOfField r)).setWidth 16))], ⟨rfl, rfl⟩,
        fun _ _ => rfl⟩ (exec_push16 r)
  | ret =>
    exact UpdatesOf.completes
      ⟨[.read (s.reg 7) 4, .reg 7 (s.reg 7 + 4#32), .pc (s.readWord (s.reg 7))], ⟨trivial, rfl, trivial⟩, fun _ _ => rfl⟩
      exec_ret
  | ret16 =>
    exact UpdatesOf.completes
      ⟨[.read (s.reg 7) 2, .reg 7 (s.reg 7 + 2#32), .pc ((s.readHalf (s.reg 7)).setWidth 32)], ⟨trivial, rfl, trivial⟩,
        fun _ _ => rfl⟩ exec_ret16
  | ret16Imm h =>
    exact UpdatesOf.completes
      ⟨[.read (s.reg 7) 2, .reg 7 (s.reg 7 + 2#32), .reg 7 (s.reg 7 + 2#32 + h.setWidth 32),
        .pc ((s.readHalf (s.reg 7)).setWidth 32)], ⟨trivial, rfl, rfl, trivial⟩, fun _ _ => rfl⟩ (exec_ret16Imm h)
  | pop16 r =>
    exact UpdatesOf.completes_advance
      ⟨[.read (s.reg 7) 2, .reg 7 (s.reg 7 + 2#32), .reg (regOfField r)
        (((if regOfField r = 7 then s.reg 7 + 2#32 else s.reg (regOfField r)) &&& 0xFFFF0000#32) |||
          (s.readHalf (s.reg 7)).setWidth 32)], ⟨trivial, Bool.or_true _, Bool.or_eq_true_iff.mpr (.inl (decide_eq_true rfl))⟩,
        fun _ _ => rfl⟩ (exec_pop16 r)
  | mov8 r b =>
    exact UpdatesOf.completes_advance
      ⟨[.reg (regOfField r) ((s.reg (regOfField r) &&& 0xFFFFFF00#32) ||| b.setWidth 32)], decide_eq_true rfl,
        fun _ _ => rfl⟩ (exec_mov8 r b)
  | mov16 r h =>
    exact UpdatesOf.completes_advance
      ⟨[.reg (regOfField r) ((s.reg (regOfField r) &&& 0xFFFF0000#32) ||| h.setWidth 32)], decide_eq_true rfl,
        fun _ _ => rfl⟩ (exec_mov16 r h)
  | cli => exact UpdatesOf.completes_advance ⟨[.flag 2 false], allowed_flag rfl (by decide), fun _ _ => rfl⟩ exec_cli
  | sti => exact UpdatesOf.completes_advance ⟨[.flag 2 true], allowed_flag rfl (by decide), fun _ _ => rfl⟩ exec_sti
  | cliL => exact UpdatesOf.completes_advance ⟨[.flag 2 false], allowed_flag rfl (by decide), fun _ _ => rfl⟩ exec_cliL
  | stiL => exact UpdatesOf.completes_advance ⟨[.flag 9 true], ⟨rfl, by decide, fun _ => rfl⟩, fun _ _ => rfl⟩ exec_stiL
  | hlt => exact UpdatesOf.completes_advance ⟨[.report (.halt s.pc)], nofun, fun _ _ => rfl⟩ exec_hlt
  | ud2 => exact UpdatesOf.completes_advance ⟨[.report (.ud s.pc)], nofun, fun _ _ => rfl⟩ exec_ud2
  | movsb =>
    exact UpdatesOf.completes_advance
      ⟨[.read (s.reg 4) 1, .write (s.reg 5) [s.readByte (s.reg 4)], .reg 4 (s.reg 4 + 1#32), .reg 5 (s.reg 5 + 1#32)],
        ⟨trivial, rfl, rfl, rfl⟩, fun _ _ => State.moveByte_eq _⟩ exec_movsb
  | cmpsb =>
    exact UpdatesOf.completes_advance
      ⟨[.read (s.reg 4) 1, .read (s.reg 5) 1,
        .flag zfBit (decide ((s.readByte (s.reg 4)).toNat = (s.readByte (s.reg 5)).toNat)),
        .flag cfBit (decide ((s.readByte (s.reg 4)).toNat < (s.readByte (s.reg 5)).toNat)),
        .reg 4 (s.reg 4 + 1#32), .reg 5 (s.reg 5 + 1#32)],
        ⟨trivial, trivial, allowed_flag rfl (by decide), allowed_flag rfl (by decide), rfl, rfl⟩,
        fun _ _ => State.compareByte_eq _⟩ exec_cmpsb
  | repMovsb =>
    exact ((updatesOf_repeatMove (s.reg 2).toNat s).congr (f := fun t => t.repeatMove (t.reg 2).toNat)
      fun _ _ => rfl).completes_advance exec_repMovsb
  | repCmpsb =>
    exact ((updatesOf_repeatCompare (s.reg 2).toNat s).congr (f := fun t => t.repeatCompare (t.reg 2).toNat)
      fun _ _ => rfl).completes_advance exec_repCmpsb
  | int n => exact completesByUpdates_int n s
  | syscall =>
    exact UpdatesOf.completes
      ⟨[.reg 7 (s.reg 7 - 4#32), .write (s.reg 7 - 4#32) (bytes32 s.flags), .reg 7 (s.reg 7 - 4#32 - 4#32),
        .write (s.reg 7 - 4#32 - 4#32) (bytes32 (s.pc + 2#32)), .pc s.setup.syscallHandler],
        ⟨rfl, rfl, rfl, rfl, trivial⟩, fun _ _ => State.enterHandler_eq _ _⟩ exec_syscall
  | sysret =>
    exact UpdatesOf.completes
      ⟨[.read (s.reg 7) 4, .reg 7 (s.reg 7 + 4#32), .read (s.reg 7 + 4#32) 4, .reg 7 (s.reg 7 + 4#32 + 4#32),
        .pc (s.readWord (s.reg 7)), .flags (s.readWord (s.reg 7 + 4#32))],
        ⟨trivial, rfl, trivial, rfl, trivial, rfl⟩, fun _ _ => State.returnFromHandler_eq _⟩ exec_sysret
  | cpuid =>
    let w := cpuidWordsOf s.setup (s.reg 0)
    exact UpdatesOf.completes_advance
      ⟨[.reg 0 w.w0, .reg 1 w.w1, .reg 2 w.w2, .reg 3 w.w3], ⟨rfl, rfl, rfl, rfl⟩, fun _ _ => rfl⟩ exec_cpuid
  | rdtsc =>
    exact UpdatesOf.completes_advance
      ⟨[.reg 0 (lowWord s.cycles), .reg 1 (highWord s.cycles)], ⟨rfl, rfl⟩, fun _ _ => rfl⟩ exec_rdtsc
  | movseg k r =>
    cases hsel : Sel.ofField k with
    | some sel =>
      exact UpdatesOf.completes_advance
        ⟨[.sel sel ((s.reg (regOfField r)).setWidth 16)], ⟨k, r, rfl⟩, fun _ _ => rfl⟩ (exec_movseg hsel r)
    | none =>
      exact UpdatesOf.completes
        ⟨[.report (.decodeError s.pc (encode (.movseg k r))), .pc (s.next 2#32)], ⟨nofun, trivial⟩, fun _ _ => rfl⟩
        (exec_movseg_of_none hsel r)

end Sys2Proof.Machine
end

section
/-!
PROOFS. The whole-machine rules (O8, O15 to O20), each a fact about one update carried along an instruction's list, and the run loop:
the step and the end of a cycle (O6, O7, O9, O10), the invariant (O11, O12) and the reset values (O13).
-/

namespace Sys2Proof.Machine

/-! ## What an instruction that answers a next state did -/

theorem exec_completes (i : Instr) (s : State) : ∃ t, exec i s = .next t := by
  obtain ⟨us, -, hexec⟩ := exec_completesByUpdates i s
  exact ⟨_, hexec s.lwa s.events⟩

/-- What an instruction answers is its updates applied, whatever lwa and the outputs were before. -/
theorem exec_eq_next {i : Instr} {s t : State} (h : exec i s = .next t) :
    ∃ us : List Update, (∀ u ∈ us, u.Allowed i) ∧ t = s.applyAll us ∧
      ∀ l es, exec i (s.withPast l es) = .next (t.withPast (us.foldl Update.lwaAfter l)
        (es ++ us.flatMap (Update.outputs s.setup.hooks))) := by
  obtain ⟨us, hus, hexec⟩ := exec_completesByUpdates i s
  have ht : t = s.applyAll us := Host.Outcome.next.inj (h.symm.trans (hexec s.lwa s.events))
  refine ⟨us, List.forall_iff_forall_mem.mp hus, ht, fun l es => ?_⟩
  rw [hexec, State.applyAll_withPast, ht]

theorem State.applyAll_lwa (s : State) (us : List Update) : (s.applyAll us).lwa = us.foldl Update.lwaAfter s.lwa :=
  congrArg State.lwa (s.applyAll_withPast us s.lwa s.events)

theorem State.applyAll_events (s : State) (us : List Update) :
    (s.applyAll us).events = s.events ++ us.flatMap (Update.outputs s.setup.hooks) :=
  congrArg State.events (s.applyAll_withPast us s.lwa s.events)

/-- What no update that `i` may do changes, `i` does not change. -/
theorem exec_keeps {i : Instr} {s t : State} {α : Type} (p : State → α) (h : exec i s = .next t)
    (hp : ∀ u : Update, u.Allowed i → ∀ v : State, p (v.apply u) = p v) : p t = p s := by
  obtain ⟨us, hus, rfl, -⟩ := exec_eq_next h
  exact State.applyAll_keeps p (fun u hu => hp u (hus u hu)) s

/-! ## Run control -/

/-- What no instruction writes (R30, R48, R57, R434). -/
def State.runControl (s : State) : Count × RunState × Nat × Nat × Setup × Option Nat :=
  (s.cycles, s.run, s.bpos, s.batch, s.setup, s.shutdownAt)

theorem State.apply_runControl (s : State) (u : Update) : (s.apply u).runControl = s.runControl := by
  cases u with
  | cursor => rw [State.apply, State.advanceCursor_eq]; rfl
  | _ => simp [State.apply, State.runControl]

theorem exec_runControl {i : Instr} {s t : State} (h : exec i s = .next t) : t.runControl = s.runControl :=
  exec_keeps State.runControl h fun u _ v => v.apply_runControl u

/-- Settles O15: no update writes the run control. -/
theorem instructionsLeaveRunControl : Obligations.InstructionsLeaveRunControl := by
  intro i s t h
  simpa [State.runControl] using exec_runControl h

/-! ## Writers -/

theorem State.apply_flag {i : Instr} {u : Update} (hu : u.Allowed i) {k : Nat} (hk : mayWriteFlag k i ≠ true)
    (s : State) : (s.apply u).flag k = s.flag k := by
  cases u with
  | flag j b =>
    obtain ⟨hj, hlt, -⟩ := hu
    rw [State.apply, State.flag_setFlag s hlt, if_neg fun h : k = j => hk (h ▸ hj)]
  | flags w => exact absurd (hu ▸ rfl) hk
  | cursor => rw [State.apply, State.advanceCursor_eq]; rfl
  | _ => simp [State.apply]

/-- An update other than a write of the whole flags word does not clear bit 9. -/
theorem State.apply_flag_nine {i : Instr} {u : Update} (hu : u.Allowed i) (hi : i ≠ .sysret) {s : State}
    (hs : s.flag 9 = true) : (s.apply u).flag 9 = true := by
  cases u with
  | flag j b =>
    obtain ⟨-, hlt, hnine⟩ := hu
    rw [State.apply, State.flag_setFlag s hlt]
    split_ifs with h
    · exact hnine h.symm
    · exact hs
  | flags w => exact absurd hu hi
  | cursor => rw [State.apply, State.advanceCursor_eq]; exact hs
  | _ => simpa [State.apply] using hs

/-- Settles O18: an update changes a flag bit only by a flag write that the instruction may do. -/
theorem flagsChangeOnlyByTheirWriters : Obligations.FlagsChangeOnlyByTheirWriters := by
  intro i s t h
  refine ⟨fun k hk => ?_, fun hi hs => ?_⟩
  · by_contra hwriter
    exact hk (exec_keeps (State.flag · k) h fun _ hu => State.apply_flag hu hwriter)
  · obtain ⟨us, hus, rfl, -⟩ := exec_eq_next h
    exact State.applyAll_induct (P := fun v => v.flag 9 = true)
      (fun u hu _ => State.apply_flag_nine (hus u hu) hi) hs

theorem State.apply_reg {i : Instr} {u : Update} (hu : u.Allowed i) {j : Fin 8} (hj : mayWriteRegister j i ≠ true)
    (s : State) : (s.apply u).reg j = s.reg j := by
  cases u with
  | reg k v => exact State.reg_setReg_ne s (fun h : j = k => hj (h ▸ hu)) v
  | cursor => rw [State.apply, State.advanceCursor_eq]; rfl
  | _ => simp [State.apply]

/-- Settles O19: an update changes a register only by a register write that the instruction may do. -/
theorem registersChangeOnlyByTheirWriters : Obligations.RegistersChangeOnlyByTheirWriters := by
  intro i s t j h hj
  by_contra hwriter
  exact hj (exec_keeps (State.reg · j) h fun _ hu => State.apply_reg hu hwriter)

theorem State.apply_segs {i : Instr} {u : Update} (hu : u.Allowed i) (hi : ∀ k r, i ≠ .movseg k r) (s : State) :
    (s.apply u).segs = s.segs := by
  cases u with
  | sel k v =>
    obtain ⟨k, r, h⟩ := hu
    exact absurd h (hi k r)
  | cursor => rw [State.apply, State.advanceCursor_eq]; rfl
  | _ => simp [State.apply]

theorem State.apply_cursor {i : Instr} {u : Update} (hu : u.Allowed i) (hi : i ≠ .int 0x10#8) (s : State) :
    (s.apply u).curRow = s.curRow ∧ (s.apply u).curCol = s.curCol := by
  cases u with
  | cursor => exact absurd hu hi
  | _ => simp [State.apply]

theorem State.apply_storage {i : Instr} {u : Update} (hu : u.Allowed i) (hi : mayStore i = false) (s : State) :
    (s.apply u).lwa = s.lwa ∧ (s.apply u).mem = s.mem := by
  cases u with
  | write a bytes => exact absurd (hu.symm.trans hi) (by decide)
  | cursor => rw [State.apply, State.advanceCursor_eq]; exact ⟨rfl, rfl⟩
  | _ => simp [State.apply]

/-- Settles O20: each part of the storage has one kind of update that changes it, and only its writers may do it. -/
theorem storageChangesOnlyByItsWriters : Obligations.StorageChangesOnlyByItsWriters := by
  intro i s t h
  refine ⟨fun hi => ?_, fun hi => ⟨?_, ?_⟩, fun hi => ⟨?_, fun x => ?_⟩⟩
  · exact exec_keeps State.segs h fun _ hu => State.apply_segs hu hi
  · exact exec_keeps State.curRow h fun _ hu v => (State.apply_cursor hu hi v).1
  · exact exec_keeps State.curCol h fun _ hu v => (State.apply_cursor hu hi v).2
  · exact exec_keeps State.lwa h fun _ hu v => (State.apply_storage hu hi v).1
  · have hmem : t.mem = s.mem := exec_keeps State.mem h fun _ hu v => (State.apply_storage hu hi v).2
    rw [State.readByte, State.readByte, hmem]

/-! ## lwa and the outputs are not read -/

/-- Updates leave lwa as it is, or make it one value whatever it was. -/
theorem lwaAfter_cases (us : List Update) :
    (∀ l, us.foldl Update.lwaAfter l = l) ∨ ∀ l l', us.foldl Update.lwaAfter l = us.foldl Update.lwaAfter l' := by
  induction us with
  | nil => exact .inl fun _ => rfl
  | cons u us ih =>
    cases u with
    | write a bytes => exact .inr fun _ _ => rfl
    | _ => exact ih

/-- Settles O17: the list of updates does not depend on lwa, and either writes it or leaves it. -/
theorem lastWriteAddressIsNotRead : Obligations.LastWriteAddressIsNotRead := by
  intro i s t l h
  obtain ⟨us, -, ht, hexec⟩ := exec_eq_next h
  have hlwa : t.lwa = us.foldl Update.lwaAfter s.lwa := ht ▸ s.applyAll_lwa us
  have hevents : t.events = s.events ++ us.flatMap (Update.outputs s.setup.hooks) := ht ▸ s.applyAll_events us
  have hother := hexec l s.events
  rw [← hevents] at hother
  rcases lwaAfter_cases us with hkept | hwritten
  · rw [hkept] at hlwa hother
    exact .inr ⟨hlwa, hother⟩
  · rw [hwritten l s.lwa, ← hlwa] at hother
    exact .inl hother

/-- What the end of a cycle outputs (R436, R438). -/
def cycleEndOutputs (s : State) : List Event :=
  if inRange s.pc then (if s.bpos + 1 < 1000 then [] else [.render s.batch]) else [.diag (.ipOutOfRange s.pc)]

theorem State.endCycle_of_events (s : State) (es : List Event) :
    State.endCycle { s with events := es } = { s.endCycle with events := es ++ cycleEndOutputs s } := by
  have hother := State.endCycle_cases { s with events := es }
  rcases s.endCycle_cases with ⟨hp, hb, h⟩ | ⟨hp, hb, h⟩ | ⟨hp, h⟩
  all_goals simp_all [cycleEndOutputs]

/-- A cycle whose bytes are no instruction (R137, R140). -/
theorem step_of_error {s : State} {e : DecodeError} (hg : s.gate = .cycle) (hd : s.decodeAtPc = .error e) :
    step s = .next ((s.beginCycle e.bytes.length).takeDecodeError e.bytes).endCycle := by
  rw [step, hg]
  simp only [hd]

/-- A cycle that runs an instruction (R140). -/
theorem step_of_instr {s t : State} {i : Instr} (hg : s.gate = .cycle) (hd : s.decodeAtPc = .instr i)
    (ht : exec i (s.beginCycle i.length) = .next t) : step s = .next t.endCycle := by
  rw [step, hg]
  simp only [hd, ht]

/-- The interpreter's part of a cycle appends its outputs and does not read those before it. -/
theorem step_cycle_of_events {s : State} (hg : s.gate = .cycle) :
    ∃ (t : State) (new : List Event), ∀ es : List Event,
      step { s with events := es } = .next (State.endCycle { t with events := es ++ new }) := by
  cases hd : s.decodeAtPc with
  | error e =>
    refine ⟨(s.beginCycle e.bytes.length).takeDecodeError e.bytes,
      fetchReports s.pc e.bytes.length ++ [.diag (.decodeError s.pc e.bytes)], fun es => ?_⟩
    rw [step_of_error (s := { s with events := es }) hg hd, ← List.append_assoc]
    rfl
  | instr i =>
    obtain ⟨t, ht⟩ := exec_completes i (s.beginCycle i.length)
    obtain ⟨us, -, -, hexec⟩ := exec_eq_next ht
    refine ⟨{ t with lwa := us.foldl Update.lwaAfter none },
      fetchReports s.pc i.length ++ us.flatMap (Update.outputs s.setup.hooks), fun es => ?_⟩
    rw [step_of_instr (s := { s with events := es }) hg hd (hexec none (es ++ fetchReports s.pc i.length)),
      ← List.append_assoc]
    rfl

/-- Settles O16: neither the checks of the run loop, nor the interpreter, nor the end of the cycle reads the outputs. -/
theorem outputsAreNeverRead : Obligations.OutputsAreNeverRead := by
  intro s
  have happends : ∃ (t : State) (new : List Event), ∀ es : List Event,
      step { s with events := es } = .next { t with events := es ++ new } := by
    cases hg : s.gate with
    | final =>
      refine ⟨s, [], fun es => ?_⟩
      have hg' : State.gate { s with events := es } = .final := hg
      rw [step, hg', List.append_nil]
    | shutdown =>
      refine ⟨s.stop, [], fun es => ?_⟩
      have hg' : State.gate { s with events := es } = .shutdown := hg
      rw [step, hg', List.append_nil]
      rfl
    | outOfRange =>
      refine ⟨s.stop, [.diag (.ipOutOfRange s.pc)], fun es => ?_⟩
      have hg' : State.gate { s with events := es } = .outOfRange := hg
      rw [step, hg']
      rfl
    | cycle =>
      obtain ⟨t, new, hstep⟩ := step_cycle_of_events hg
      refine ⟨t.endCycle, new ++ cycleEndOutputs t, fun es => ?_⟩
      rw [hstep, State.endCycle_of_events, List.append_assoc]
  obtain ⟨t, new, hstep⟩ := happends
  exact ⟨{ t with events := s.events ++ new }, new, hstep s.events, rfl, hstep⟩

/-! ## The step and the run loop -/

/-- Settles O6: every instruction completes, so the cycle runs to its end. -/
theorem stepRunsDecodedInstruction : Obligations.StepRunsDecodedInstruction := by
  intro s i hrun hbatch hpc hd
  obtain ⟨t, ht⟩ := exec_completes i (s.beginCycle i.length)
  exact ⟨t, ht, step_of_instr (State.gate_cycle hrun hbatch hpc) hd ht⟩

/-- Settles O7: the start of the cycle, then all that a decode error does. -/
theorem decodeErrorIsReported : Obligations.DecodeErrorIsReported := by
  intro s e hrun hbatch hpc hd
  obtain ⟨hnext, hframe⟩ := noStore_takeDecodeError (s.beginCycle e.bytes.length) e.bytes
  exact ⟨_, step_of_error (State.gate_cycle hrun hbatch hpc) hd, hnext,
    ((NoStore.refl { s with lwa := none } [] []).emit _).trans hframe⟩

/-- Settles O8: an instruction is a list of updates, and each branch of the step answers a next state. -/
theorem everyStepCompletes : Obligations.EveryStepCompletes := by
  refine ⟨exec_completes, fun s => ?_⟩
  obtain ⟨t, -, hstep, -⟩ := outputsAreNeverRead s
  exact ⟨t, hstep⟩

/-- Settles O10: each case has one answer of the run loop's gate. -/
theorem runLoopStops : Obligations.RunLoopStops := by
  refine fun s => ⟨fun hrun => ?_, fun hrun hpos hreq => ?_, fun hrun hbatch hpc => ?_⟩
  · have hg : s.gate = .final := by simp [State.gate, hrun]
    rw [step, hg]
  · have hg : s.gate = .shutdown := by simp [State.gate, hrun, hpos, hreq]
    rw [step, hg]
    rfl
  · have hg : s.gate = .outOfRange := by
      unfold State.gate
      simp only [hrun, if_neg hbatch, hpc]
      rfl
    rw [step, hg]
    rfl

/-- An output that no interpreter step makes: those of the run loop (R390, R438). -/
def Event.ofRunLoop : Event → Bool
  | .render _ => true
  | .diag (.ipOutOfRange _) => true
  | _ => false

theorem fetchReports_quiet (a : Word) (n : Nat) : ∀ e ∈ fetchReports a n, e.ofRunLoop = false := by
  induction n generalizing a with
  | zero => simp [fetchReports]
  | succ n ih =>
    intro e he
    rcases List.mem_append.mp he with he | he
    · split_ifs at he
      · cases he
      · rw [List.mem_singleton.mp he]; rfl
    · exact ih _ e he

theorem accessHooks_quiet (hooks : List Hook) (a : Word) (bytes : List Byte) :
    ∀ e ∈ accessHooks hooks a bytes, e.ofRunLoop = false := by
  induction bytes generalizing a with
  | nil => simp [accessHooks]
  | cons b bs ih =>
    intro e he
    rcases List.mem_append.mp he with he | he
    · obtain ⟨h, -, rfl⟩ := List.mem_map.mp he
      rfl
    · exact ih _ e he

/-- No update that an instruction may do makes an output of the run loop. -/
theorem Update.outputs_quiet {i : Instr} {u : Update} (hu : u.Allowed i) (hooks : List Hook) :
    ∀ e ∈ u.outputs hooks, e.ofRunLoop = false := by
  intro e he
  cases u with
  | read a n =>
    simp only [Update.outputs, readReport] at he
    split_ifs at he
    · cases he
    · rw [List.mem_singleton.mp he]; rfl
  | report d =>
    rw [List.mem_singleton.mp he]
    cases d with
    | ipOutOfRange p => exact absurd rfl (hu p)
    | _ => rfl
  | write a bytes =>
    rcases List.mem_append.mp he with he | he
    · simp only [writeReport] at he
      split_ifs at he
      · cases he
      · rw [List.mem_singleton.mp he]; rfl
    · exact accessHooks_quiet hooks a bytes e he
  | _ => cases he

/-- A cycle is an interpreter step, which keeps the run control and makes no output of the run loop, and then the cycle's end. -/
theorem step_cycle {s : State} (hg : s.gate = .cycle) :
    ∃ u new, step s = .next (State.endCycle u) ∧ u.runControl = s.runControl ∧ u.events = s.events ++ new ∧
      ∀ e ∈ new, e.ofRunLoop = false := by
  cases hd : s.decodeAtPc with
  | error e =>
    refine ⟨_, fetchReports s.pc e.bytes.length ++ [.diag (.decodeError s.pc e.bytes)], step_of_error hg hd, rfl,
      ?_, fun ev hev => ?_⟩
    · exact List.append_assoc s.events (fetchReports s.pc e.bytes.length) [.diag (.decodeError s.pc e.bytes)]
    · rcases List.mem_append.mp hev with hev | hev
      · exact fetchReports_quiet _ _ ev hev
      · rw [List.mem_singleton.mp hev]; rfl
  | instr i =>
    obtain ⟨u, hu⟩ := exec_completes i (s.beginCycle i.length)
    obtain ⟨us, hus, rfl, -⟩ := exec_eq_next hu
    refine ⟨_, fetchReports s.pc i.length ++ us.flatMap (Update.outputs s.setup.hooks), step_of_instr hg hd hu,
      (exec_runControl hu).trans rfl, ?_, fun ev hev => ?_⟩
    · rw [State.applyAll_events, ← List.append_assoc]
      rfl
    · rcases List.mem_append.mp hev with hev | hev
      · exact fetchReports_quiet _ _ ev hev
      · obtain ⟨v, hv, hev⟩ := List.mem_flatMap.mp hev
        exact Update.outputs_quiet (hus v hv) _ ev hev

/-- Settles O9: the interpreter keeps the run control, so the end of the cycle decides it. -/
theorem cycleEndsByTheRunLoop : Obligations.CycleEndsByTheRunLoop := by
  intro s hrun hbatch hpc
  obtain ⟨u, new, hstep, hcontrol, hevents, hquiet⟩ := step_cycle (State.gate_cycle hrun hbatch hpc)
  simp only [State.runControl, Prod.mk.injEq] at hcontrol
  obtain ⟨hcycles, hurun, hbpos, hnumber, -, -⟩ := hcontrol
  refine ⟨u.endCycle, new, hstep, ?_, fun k hk => Bool.noConfusion (hquiet _ hk), fun p hp => Bool.noConfusion (hquiet _ hp), ?_⟩
  · rcases u.endCycle_cases with ⟨-, -, h⟩ | ⟨-, -, h⟩ | ⟨-, h⟩ <;> rw [h, ← hcycles]
  · rcases u.endCycle_cases with ⟨hp, hb, h⟩ | ⟨hp, hb, h⟩ | ⟨hp, h⟩
    all_goals simp_all

/-! ## The invariant -/

/-- The part of the invariant that the run loop does not touch. -/
def StorageInv (s : State) : Prop :=
  Memory.wf s.mem = true ∧ s.curRow < s.setup.textRows ∧ s.curCol < s.setup.textCols

/-- The cursor stays in the text window (R395). -/
theorem StorageInv.advanceCursor {s : State} (h : StorageInv s) : StorageInv s.advanceCursor := by
  obtain ⟨hmem, hrow, hcol⟩ := h
  unfold State.advanceCursor
  split_ifs with hlast hdown
  · exact ⟨hmem, hdown, Nat.zero_lt_of_lt hcol⟩
  · exact ⟨hmem, hrow, Nat.zero_lt_of_lt hcol⟩
  · exact ⟨hmem, hrow, show s.curCol + 1 < s.setup.textCols by omega⟩

theorem StorageInv.apply {s : State} (h : StorageInv s) (u : Update) : StorageInv (s.apply u) := by
  cases u with
  | cursor => exact h.advanceCursor
  | write a bytes =>
    obtain ⟨hmem, hrow, hcol⟩ := h
    refine ⟨?_, by simpa [State.apply] using hrow, by simpa [State.apply] using hcol⟩
    rw [State.apply, State.memWrite_mem]
    exact Memory.wf_storedBytes hmem a bytes
  | read a n => rw [State.apply, State.noteRead_eq]; exact h
  | _ => exact h

theorem StorageInv.exec {i : Instr} {s t : State} (h : StorageInv s) (ht : exec i s = .next t) : StorageInv t := by
  obtain ⟨us, -, rfl, -⟩ := exec_eq_next ht
  exact State.applyAll_induct (P := StorageInv) (fun u _ _ hv => hv.apply u) h

theorem Inv.storage {s : State} (h : Inv s) : StorageInv s := ⟨h.memory, h.row, h.column⟩

/-- A machine that has stopped, with nothing else changed but its outputs and its cycle count, keeps the invariant. -/
theorem StorageInv.inv_of_stopped {s : State} (h : StorageInv s) (hrun : s.run = .stopped)
    (hbpos : s.bpos < Config.batchLength) : Inv s := by
  obtain ⟨hmem, hrow, hcol⟩ := h
  exact ⟨hmem, hrow, hcol, hbpos, fun hr => absurd (hr.symm.trans hrun) (by decide)⟩

/-- The end of a cycle establishes the run loop's part of the invariant (R435, R436). -/
theorem StorageInv.endCycle {u : State} (h : StorageInv u) (hbpos : u.bpos < Config.batchLength) : Inv u.endCycle := by
  obtain ⟨hmem, hrow, hcol⟩ := h
  rcases u.endCycle_cases with ⟨hp, hb, he⟩ | ⟨hp, hb, he⟩ | ⟨hp, he⟩
  · rw [he]; exact ⟨hmem, hrow, hcol, hb, fun _ => hp⟩
  · rw [he]; exact ⟨hmem, hrow, hcol, Nat.zero_lt_succ _, fun _ => hp⟩
  · rw [he]; exact StorageInv.inv_of_stopped ⟨hmem, hrow, hcol⟩ rfl hbpos

/-- Settles O11: the storage part is kept by every update, and the run loop's part is set by the end of the cycle. -/
theorem stepKeepsInvariant : Obligations.StepKeepsInvariant := by
  intro s t hinv hstep
  rcases step_cases hstep with ⟨-, rfl⟩ | ⟨-, -, -, rfl⟩ | ⟨-, -, rfl⟩ | ⟨-, -, e, -, rfl⟩ | ⟨-, -, i, u, -, hu, rfl⟩
  · exact hinv
  · exact StorageInv.inv_of_stopped hinv.storage rfl hinv.bpos
  · exact StorageInv.inv_of_stopped hinv.storage rfl hinv.bpos
  · exact StorageInv.endCycle hinv.storage hinv.bpos
  · have hcontrol := exec_runControl hu
    simp only [State.runControl, Prod.mk.injEq] at hcontrol
    obtain ⟨-, -, hbpos, -⟩ := hcontrol
    have hstorage : StorageInv (s.beginCycle i.length) := hinv.storage
    exact (hstorage.exec hu).endCycle (hbpos ▸ hinv.bpos)

/-- Settles O12: every field is at its reset value. -/
theorem resetHasInvariant : Obligations.ResetHasInvariant :=
  ⟨Memory.wf_created Setup.default, by decide, by decide, by decide, fun _ => by decide⟩

/-- Settles O13 by the values that creation gives. -/
theorem resetValues : Obligations.ResetValues :=
  ⟨created_reg Setup.default, rfl, rfl, created_seg Setup.default, rfl, rfl, rfl, rfl, rfl, rfl, rfl, fun _ => ite_self _⟩

end Sys2Proof.Machine
end
